-- ==== Sys2Proof/Word.lean ====
section
/-! DEFINITION. The words of the block: masks and responses of 32 bits, command words of 40 bits, operation codes of 8. -/

namespace Sys2Proof

/-- A 32-bit word: a mask (`MASK_W` of 00_scope.md R6), an `arg`, a response `rsp` (30_encoding.md R70, R72). -/
abbrev Word := BitVec 32

/-- A command word: exactly 40 bits (30_encoding.md R70). -/
abbrev CommandWord := BitVec 40

/-- The field `op` of a command word (30_encoding.md R70). -/
abbrev OpCode := BitVec 8

/-- A divisor code, the register `divsel` and the operand of format `D` (10_state.md R22, 30_encoding.md R73). -/
abbrev DivSel := BitVec 3

end Sys2Proof
end

