-- ==== Sys2Proof/Syntax.lean ====
section
/-! DEFINITION. The twenty commands of the block, one constructor per row of the opcode table (30_encoding.md R74). -/

namespace Sys2Proof

/-- A command with its operand (30_encoding.md R71, R73): format `D` carries the 3-bit code `divsel`, format `M` the 32-bit
operand `m`, format `Z` nothing. -/
inductive Instr where
  /-- `CONFIGURE divsel` (40_tick_source.md R102) -/
  | configure (divsel : DivSel)
  /-- `VALUE` (R103) -/
  | value
  /-- `RDIF` (R104) -/
  | rdif
  /-- `CLRIF m` (R105) -/
  | clrif (m : Word)
  /-- `RDIM` (R106) -/
  | rdim
  /-- `WRIM m` (R107) -/
  | wrim (m : Word)
  /-- `INIT` (41_scan_engine.md R120) -/
  | init
  /-- `STEP` (R121) -/
  | step
  /-- `SHUTDOWN` (R127) -/
  | shutdown
  /-- `ARM` (42_deadline.md R142) -/
  | arm
  /-- `POLL` (R143) -/
  | poll
  /-- `WRON m` (43_mask_interface.md R160) -/
  | wron (m : Word)
  /-- `WRDIM m` (R161) -/
  | wrdim (m : Word)
  /-- `WRBLINK m` (R162) -/
  | wrblink (m : Word)
  /-- `SETON m` (R163) -/
  | seton (m : Word)
  /-- `SETDIM m` (R164) -/
  | setdim (m : Word)
  /-- `SETBLINK m` (R165) -/
  | setblink (m : Word)
  /-- `CLRON m` (R166) -/
  | clron (m : Word)
  /-- `CLRDIM m` (R167) -/
  | clrdim (m : Word)
  /-- `CLRBLINK m` (R168) -/
  | clrblink (m : Word)
  deriving DecidableEq, Repr

/-- The three formats of 30_encoding.md R71. -/
inductive Format where
  /-- no operand: `arg` must be 0 -/
  | z
  /-- divisor select: `arg[2:0] = divsel`, `arg[31:3]` must be 0 -/
  | d
  /-- 32-bit mask operand -/
  | m
  deriving DecidableEq, Repr

/-- The format of each command (30_encoding.md R74). -/
def Instr.format : Instr → Format
  | .configure _ => .d
  | .value => .z
  | .rdif => .z
  | .clrif _ => .m
  | .rdim => .z
  | .wrim _ => .m
  | .init => .z
  | .step => .z
  | .shutdown => .z
  | .arm => .z
  | .poll => .z
  | .wron _ => .m
  | .wrdim _ => .m
  | .wrblink _ => .m
  | .seton _ => .m
  | .setdim _ => .m
  | .setblink _ => .m
  | .clron _ => .m
  | .clrdim _ => .m
  | .clrblink _ => .m

end Sys2Proof
end

