-- ==== Sys2Proof/Decode.lean ====
section
/-! DEFINITION. Decoding a 40-bit command word (30_encoding.md R70 to R77), and the encoder written from the same table. -/

namespace Sys2Proof

/-- Why a command word matches no row of the opcode table (30_encoding.md R76). Each is `IllegalCommand`. -/
inductive Reject where
  /-- `op` is none of the twenty values of R74. -/
  | unknownOp
  /-- A `Z`-format word with `arg != 0`. -/
  | nonzeroArg
  /-- A `D`-format word with `arg[31:3] != 0`. -/
  | nonzeroDivselPad
  deriving DecidableEq, Repr

/-- What the decoder answers: a command, or the name of the reason there is none. -/
inductive Decoded where
  | instr (i : Instr)
  | rejected (r : Reject)
  deriving DecidableEq, Repr

/-- `op = w[39:32]` (30_encoding.md R70). -/
def opField (w : CommandWord) : OpCode := w.extractLsb' 32 8

/-- `arg = w[31:0]` (30_encoding.md R70). -/
def argField (w : CommandWord) : Word := w.extractLsb' 0 32

/-- A command word from its two fields, `{op, arg}`. -/
def joinFields (op : OpCode) (arg : Word) : CommandWord := op ++ arg

/-- `divsel = arg[2:0]` (30_encoding.md R73). -/
def divselOfArg (arg : Word) : DivSel := arg.extractLsb' 0 3

/-- The must-be-zero bits of format `D`, `arg[31:3]` (30_encoding.md R71). -/
def divselPad (arg : Word) : BitVec 29 := arg.extractLsb' 3 29

/-- Format `Z`: every bit of `arg` must be 0 (30_encoding.md R71). -/
def decodeZ (i : Instr) (arg : Word) : Decoded :=
  if arg = 0 then .instr i else .rejected .nonzeroArg

/-- Format `D`: `arg[31:3]` must be 0 (30_encoding.md R71). The range of the code is checked after these bits (R77), by the
command itself. -/
def decodeD (mk : DivSel → Instr) (arg : Word) : Decoded :=
  if divselPad arg = 0 then .instr (mk (divselOfArg arg)) else .rejected .nonzeroDivselPad

/-- Format `M`: nothing to check (30_encoding.md R71). -/
def decodeM (mk : Word → Instr) (arg : Word) : Decoded := .instr (mk arg)

/-- The opcode map of 30_encoding.md R74 as the algorithm of R77, steps (1) to (3). -/
def decodeFields (op : OpCode) (arg : Word) : Decoded :=
  match op.toNat with
  | 0x10 => decodeD .configure arg
  | 0x11 => decodeZ .value arg
  | 0x12 => decodeZ .rdif arg
  | 0x13 => decodeM .clrif arg
  | 0x14 => decodeZ .rdim arg
  | 0x15 => decodeM .wrim arg
  | 0x20 => decodeZ .init arg
  | 0x21 => decodeZ .step arg
  | 0x22 => decodeZ .shutdown arg
  | 0x30 => decodeZ .arm arg
  | 0x31 => decodeZ .poll arg
  | 0x40 => decodeM .wron arg
  | 0x41 => decodeM .wrdim arg
  | 0x42 => decodeM .wrblink arg
  | 0x44 => decodeM .seton arg
  | 0x45 => decodeM .setdim arg
  | 0x46 => decodeM .setblink arg
  | 0x48 => decodeM .clron arg
  | 0x49 => decodeM .clrdim arg
  | 0x4A => decodeM .clrblink arg
  | _ => .rejected .unknownOp

/-- The decoder, total on every 40-bit word (30_encoding.md R77). -/
def decode (w : CommandWord) : Decoded := decodeFields (opField w) (argField w)

/-- The command of a decoded word, if there is one. -/
def Decoded.toOption : Decoded → Option Instr
  | .instr i => some i
  | .rejected _ => none

/-- The `op` column of 30_encoding.md R74. -/
def Instr.opCode : Instr → OpCode
  | .configure _ => 0x10
  | .value => 0x11
  | .rdif => 0x12
  | .clrif _ => 0x13
  | .rdim => 0x14
  | .wrim _ => 0x15
  | .init => 0x20
  | .step => 0x21
  | .shutdown => 0x22
  | .arm => 0x30
  | .poll => 0x31
  | .wron _ => 0x40
  | .wrdim _ => 0x41
  | .wrblink _ => 0x42
  | .seton _ => 0x44
  | .setdim _ => 0x45
  | .setblink _ => 0x46
  | .clron _ => 0x48
  | .clrdim _ => 0x49
  | .clrblink _ => 0x4A

/-- The `arg` of a command (30_encoding.md R71, R73): the code zero-extended, the mask operand, or 0. -/
def Instr.arg : Instr → Word
  | .configure d => d.setWidth 32
  | .value => 0
  | .rdif => 0
  | .clrif m => m
  | .rdim => 0
  | .wrim m => m
  | .init => 0
  | .step => 0
  | .shutdown => 0
  | .arm => 0
  | .poll => 0
  | .wron m => m
  | .wrdim m => m
  | .wrblink m => m
  | .seton m => m
  | .setdim m => m
  | .setblink m => m
  | .clron m => m
  | .clrdim m => m
  | .clrblink m => m

/-- The command word of a command: `{op, arg}` (30_encoding.md R70, R74). -/
def encode (i : Instr) : CommandWord := joinFields i.opCode i.arg

/-- The command in the low `nbits` bits of `w`, every higher bit being 0. A word of more than 40 bits is no command (R70). -/
def decodeTableWord (nbits w : Nat) : Option Instr :=
  let v := w % 2 ^ nbits
  if v < 2 ^ 40 then (decode (BitVec.ofNat 40 v)).toOption else none

end Sys2Proof
end

