-- ==== Sys2Proof/Config.lean ====
section
/-! DEFINITION. The configuration tuple of the block (00_scope.md R6), when it is well formed (R7), and the spec's own test
configurations (95_test_vectors.md section 0). Every parameter is fixed at build time (R8). -/

namespace Sys2Proof

/-- One entry of `MAP`: the drive-high pin and the drive-low pin (20_memory.md R50, R51). -/
structure PinPair where
  hi : Nat
  lo : Nat
  deriving DecidableEq, Repr

/-- The parameters of 00_scope.md R6 under the spec's names. -/
structure Params where
  /-- `W` -/
  counterW : Nat
  /-- `F_REF`, in hertz -/
  fRef : Nat
  /-- `DIVISORS` -/
  divisors : List Nat
  /-- `DIV0` -/
  div0 : Nat
  /-- `PERIOD` -/
  period : Nat
  /-- `LED_COUNT` -/
  ledCount : Nat
  /-- `PORT_COUNT` -/
  portCount : Nat
  /-- `PORT_W` -/
  portW : Nat
  /-- `MAP` -/
  map : List PinPair
  /-- `IDLE`, `PIN_COUNT` bits -/
  idle : BitVec (portCount * portW)
  /-- `INIT_ON` -/
  initOn : Word
  /-- `INIT_DIM` -/
  initDim : Word
  /-- `INIT_BLINK` -/
  initBlink : Word
  /-- `FRAME_W` -/
  frameW : Nat
  /-- `IF_W` -/
  ifW : Nat
  deriving DecidableEq, Repr

/-- The number of bits needed to count `n` things, `ceil(log2(n))` for `n >= 1`. -/
def ceilLog2 (n : Nat) : Nat := if n ≤ 1 then 0 else Nat.log2 (n - 1) + 1

/-- `PIN_COUNT = PORT_COUNT * PORT_W` (00_scope.md R6). -/
abbrev Params.pinCount (p : Params) : Nat := p.portCount * p.portW

/-- `CURSOR_W = max(1, ceil(log2(LED_COUNT)))` (00_scope.md R6). -/
def Params.cursorW (p : Params) : Nat := max 1 (ceilLog2 p.ledCount)

/-- Clauses (a) to (c) of 00_scope.md R7 for one entry: distinct pins, both in range, and the idle convention. -/
abbrev Params.EntryOk (p : Params) (e : PinPair) : Prop :=
  e.hi ≠ e.lo ∧ e.hi < p.pinCount ∧ e.lo < p.pinCount ∧
    p.idle.getLsbD e.hi = false ∧ p.idle.getLsbD e.lo = true

/-- Well-formedness of a configuration: the constraint column of 00_scope.md R6 and clauses (a) to (c) of R7. Clause (d) is a
property of the board which no rule depends on (R7). -/
abbrev Params.WellFormed (p : Params) : Prop :=
  (2 ≤ p.counterW ∧ p.counterW ≤ 32) ∧
  1 ≤ p.fRef ∧
  (1 ≤ p.divisors.length ∧ p.divisors.length ≤ 8) ∧
  (∀ d ∈ p.divisors, 1 ≤ d) ∧
  p.div0 < p.divisors.length ∧
  (1 ≤ p.period ∧ p.period ≤ 2 ^ (p.counterW - 1)) ∧
  (1 ≤ p.ledCount ∧ p.ledCount ≤ 32) ∧
  1 ≤ p.portCount ∧
  1 ≤ p.portW ∧
  2 ≤ p.pinCount ∧
  7 ≤ p.frameW ∧
  (1 ≤ p.ifW ∧ p.ifW ≤ 32) ∧
  p.map.length = p.ledCount ∧
  ∀ e ∈ p.map, p.EntryOk e

/-- A configuration: parameters together with the proof that they are well formed. An ill-formed tuple has no instance
(00_scope.md R7, 93_implementation_defined.md U14: "no model instance exists for it"). -/
structure Config extends Params where
  ok : toParams.WellFormed
  deriving DecidableEq, Repr

/-- `MAP` of CFG_T: `MAP[i] = (i div 9, 3 + (i mod 9))` (95_test_vectors.md section 0). -/
def mapT : List PinPair := (List.range 27).map fun i => ⟨i / 9, 3 + i % 9⟩

/-- The parameters CFG_T of 95_test_vectors.md section 0: the reference values of 00_scope.md R6 (W 16, 27 LEDs, two ports of 8,
FRAME_W 8, IF_W 1) with the spec's test values for the OPEN parameters. -/
def Params.cfgT : Params :=
  { counterW := 16, fRef := 8000000, divisors := [1, 8, 64, 256, 1024], div0 := 2, period := 125, ledCount := 27,
    portCount := 2, portW := 8, map := mapT, idle := 0x0FF8#16, initOn := 0, initDim := 0, initBlink := 0,
    frameW := 8, ifW := 1 }

/-- The parameters CFG_S of 95_test_vectors.md section 0, for a `PERIOD` that each program of that file names. -/
def Params.cfgS (period : Nat) : Params :=
  { counterW := 16, fRef := 8000000, divisors := [1, 8, 64, 256, 1024], div0 := 2, period := period, ledCount := 3,
    portCount := 2, portW := 8, map := [⟨0, 1⟩, ⟨0, 2⟩, ⟨0, 3⟩], idle := 0x000E#16, initOn := 0, initDim := 0,
    initBlink := 0, frameW := 8, ifW := 1 }

/-- The configuration of `State.reset`. DESIGN CHOICE (log 2): the spec leaves F_REF, DIVISORS, DIV0, PERIOD, MAP, IDLE and the
initial masks OPEN (00_scope.md R6). Unsafe for a statement about `State.reset` alone. -/
def Config.reference : Config := { Params.cfgT with ok := by decide }

end Sys2Proof
end

