-- ==== Sys2Proof/Machine/State.lean ====
section
/-! DEFINITION. The state of the block: the twelve registers of 10_state.md R20, and beside them what the model itself keeps (the
configuration, the response of the step just taken, the coming events). -/

namespace Sys2Proof.Machine

/-- The `status` of a response (30_encoding.md R72); the code 3 is never produced, so the type has three values
(93_implementation_defined.md U18). -/
inductive Status where
  /-- 0: the command executed. -/
  | ok
  /-- 1: the word matched no row of the opcode table (60_exceptions.md R181). -/
  | illegalCommand
  /-- 2: `CONFIGURE` with a code past the divisor list (60_exceptions.md R182). -/
  | reservedDivisor
  deriving DecidableEq, Repr

/-- The response to one command: `rsp` and `status` (30_encoding.md R72). -/
structure Response where
  rsp : Word
  status : Status
  deriving DecidableEq, Repr

/-- The values `draw(W)`, `draw(3)`, `draw(IF_W)`, `draw(W)` of 10_state.md R42: what a reset leaves in the four registers whose
value it does not fix. They come with the event, so every value is admitted (log 4); each register takes the low bits it has. -/
structure ResetDraw where
  counter : BitVec 32
  divsel : DivSel
  iflag : BitVec 32
  deadline : BitVec 32
  deriving DecidableEq, Repr

/-- One step of one agent (00_scope.md R12, 30_encoding.md R78, 70_reset_and_hazards.md R200). -/
inductive Event where
  /-- The environment asserts `rst` (R200); the draws are the unspecified values (R42). -/
  | rst (draw : ResetDraw)
  /-- The counter agent ticks (40_tick_source.md R100). -/
  | tick
  /-- The flag hardware sets the flags of `m[IF_W-1:0]` (40_tick_source.md R101). -/
  | flag (m : Word)
  /-- The host issues a command word (30_encoding.md R70). -/
  | cmd (w : CommandWord)
  deriving DecidableEq, Repr

/-- The twelve state registers, "and no others" (10_state.md R20), at the widths the configuration gives them. -/
structure Regs (cfg : Config) where
  /-- x[0] (R21) -/
  counter : BitVec cfg.counterW
  /-- x[1] (R22) -/
  divsel : DivSel
  /-- x[2] (R23) -/
  iflag : BitVec cfg.ifW
  /-- x[3] (R24) -/
  imask : BitVec cfg.ifW
  /-- x[4] (R25) -/
  deadline : BitVec cfg.counterW
  /-- x[5] (R26) -/
  onMask : Word
  /-- x[6] (R27) -/
  dimMask : Word
  /-- x[7] (R28) -/
  blinkMask : Word
  /-- x[8] (R29) -/
  cursor : BitVec cfg.cursorW
  /-- x[9] (R31) -/
  frame : BitVec cfg.frameW
  /-- x[10] (R32) -/
  out : BitVec cfg.pinCount
  /-- x[11] (R33) -/
  dir : BitVec cfg.pinCount
  deriving DecidableEq, Repr

/-- The state of the model: the configuration (read only, log 1), the twelve registers, the response of the step just taken (there is
one only if that step was a command, 10_state.md R40, log 8), and the events to come, first first (log 5). -/
structure State where
  cfg : Config
  regs : Regs cfg
  response : Option Response
  inputs : List Event
  deriving DecidableEq, Repr

/-- Why the machine stops. The block itself has no fatal condition (60_exceptions.md R180, R183). -/
inductive Fault where
  /-- Raised by `STEP` and by a firing `POLL` that would read `MAP` at an index the table does not have. Safe: 20_memory.md R54
  says that no run reads there, so it is raised only in states with `cursor >= LED_COUNT` that no run reaches (log 10). -/
  | mapIndexOutOfTable
  deriving DecidableEq, Repr

/-- Why the model gives no meaning. -/
inductive Refusal where
  /-- An instruction without a meaning in the model. Safe. No arm of `exec` raises it. -/
  | notModelled (mnemonic : String)
  deriving DecidableEq, Repr

/-- The registers after a reset with the given draws: the table of 10_state.md R42. -/
def Regs.afterReset (cfg : Config) (draw : ResetDraw) : Regs cfg :=
  { counter := draw.counter.setWidth cfg.counterW
    divsel := draw.divsel
    iflag := draw.iflag.setWidth cfg.ifW
    imask := 0
    deadline := draw.deadline.setWidth cfg.counterW
    onMask := 0
    dimMask := 0
    blinkMask := 0
    cursor := 0
    frame := 0
    out := 0
    dir := 0 }

/-- A machine of configuration `cfg` just after a reset with the given draws, no command answered yet and `inputs` to come. -/
abbrev State.afterReset (cfg : Config) (draw : ResetDraw) (inputs : List Event) : State :=
  { cfg := cfg, regs := Regs.afterReset cfg draw, response := none, inputs := inputs }

/-- The values that `State.reset` names for the four registers whose reset value 10_state.md R42 leaves unspecified. DESIGN CHOICE
(log 3), unsafe: 70_reset_and_hazards.md R205 says that a model must not treat them as 0, so no statement rests on them. -/
def ResetDraw.named : ResetDraw := { counter := 0, divsel := 0, iflag := 0, deadline := 0 }

/-- The machine right after reset (10_state.md R42), at the reference configuration (log 2), with nothing to come (log 7). -/
def State.reset : State := State.afterReset Config.reference ResetDraw.named []

variable {cfg : Config}

/-- Writes of one register each: the only way the model's operations change a register. -/
def Regs.setCounter (r : Regs cfg) (v : BitVec cfg.counterW) : Regs cfg := { r with counter := v }
/-- Write of `divsel`. -/
def Regs.setDivsel (r : Regs cfg) (v : DivSel) : Regs cfg := { r with divsel := v }
/-- Write of `iflag`. -/
def Regs.setIflag (r : Regs cfg) (v : BitVec cfg.ifW) : Regs cfg := { r with iflag := v }
/-- Write of `imask`. -/
def Regs.setImask (r : Regs cfg) (v : BitVec cfg.ifW) : Regs cfg := { r with imask := v }
/-- Write of `deadline`. -/
def Regs.setDeadline (r : Regs cfg) (v : BitVec cfg.counterW) : Regs cfg := { r with deadline := v }
/-- Write of `on_mask`. -/
def Regs.setOnMask (r : Regs cfg) (v : Word) : Regs cfg := { r with onMask := v }
/-- Write of `dim_mask`. -/
def Regs.setDimMask (r : Regs cfg) (v : Word) : Regs cfg := { r with dimMask := v }
/-- Write of `blink_mask`. -/
def Regs.setBlinkMask (r : Regs cfg) (v : Word) : Regs cfg := { r with blinkMask := v }
/-- Write of `cursor`. -/
def Regs.setCursor (r : Regs cfg) (v : BitVec cfg.cursorW) : Regs cfg := { r with cursor := v }
/-- Write of `frame`. -/
def Regs.setFrame (r : Regs cfg) (v : BitVec cfg.frameW) : Regs cfg := { r with frame := v }
/-- Write of `out`. -/
def Regs.setOut (r : Regs cfg) (v : BitVec cfg.pinCount) : Regs cfg := { r with out := v }
/-- Write of `dir`. -/
def Regs.setDir (r : Regs cfg) (v : BitVec cfg.pinCount) : Regs cfg := { r with dir := v }

end Sys2Proof.Machine
end

