-- ==== Sys2Proof/Machine/Operands.lean ====
section
/-! DEFINITION. How a command uses its operand and widens its result (30_encoding.md R73). -/

namespace Sys2Proof.Machine

/-- `m[IF_W-1:0]`: the bits of a mask operand that `CLRIF`, `WRIM` and the flag-set event use; the others are ignored
(30_encoding.md R73). -/
def flagBits (cfg : Config) (m : Word) : BitVec cfg.ifW := m.setWidth cfg.ifW

/-- `zext_32(v)`, for registers of at most 32 bits (00_scope.md R10, 30_encoding.md R73). -/
def zext32 {n : Nat} (v : BitVec n) : Word := v.setWidth 32

/-- `bit(m, i)`, which is `m[i]` (00_scope.md R10). -/
def maskBit (m : Word) (i : Nat) : Bool := m.getLsbD i

end Sys2Proof.Machine
end

