-- ==== Sys2Proof/Machine/Flags.lean ====
section
/-! DEFINITION. The only flag bits of the block, `iflag`, and the interrupt request (10_state.md R23, R36, R37). -/

namespace Sys2Proof.Machine

variable {cfg : Config}

/-- `iflag | m` (40_tick_source.md R101). -/
def flagsSet (iflag : BitVec cfg.ifW) (m : Word) : BitVec cfg.ifW := iflag ||| flagBits cfg m

/-- `iflag & ~m[IF_W-1:0]` (40_tick_source.md R105). -/
def flagsCleared (iflag : BitVec cfg.ifW) (m : Word) : BitVec cfg.ifW := iflag &&& ~~~(flagBits cfg m)

/-- The output `irq`: 1 when `(iflag & imask) != 0` (10_state.md R36, 60_exceptions.md R185). -/
def Regs.irq (r : Regs cfg) : Bool := (r.iflag &&& r.imask) != 0

end Sys2Proof.Machine
end

