-- ==== Sys2Proof/Machine/Ops.lean ====
section
/-! DEFINITION. The operations the commands share: answering, taking one of the two hardware faults, reading `CFG`, writing the
lines. There is no return from a fault (60_exceptions.md R188) and no data memory (20_memory.md R50). -/

namespace Sys2Proof.Machine

/-- The outcome type of every command and of a step. -/
abbrev Result := Host.Outcome State Fault Refusal

/-- A command that executed: its register writes take effect together, and it answers `rsp` with status `OK` (30_encoding.md R72,
00_scope.md R11). -/
abbrev reply (s : State) (r : Regs s.cfg) (rsp : Word) : State :=
  { s with regs := r, response := some { rsp := rsp, status := .ok } }

/-- An event that is no command: its register writes, and no response, since a response exists only during a command
(10_state.md R40, log 8). -/
abbrev silent (s : State) (r : Regs s.cfg) : State := { s with regs := r, response := none }

/-- TAKING A FAULT (60_exceptions.md R180): no register changes, nothing is recorded but the status of the response, `rsp = 0`,
and the next command executes normally. -/
abbrev raise (s : State) (f : Status) : State := { s with response := some { rsp := 0, status := f } }

/-- A read of entry `c` of the table `MAP` in the space `CFG` (20_memory.md R50, R53d); none outside the table (R54). -/
def readMap (cfg : Config) (c : Nat) : Option PinPair := cfg.map[c]?

/-- `1 << i` at `PIN_COUNT` bits (00_scope.md R10). -/
def pinBit (cfg : Config) (i : Nat) : BitVec cfg.pinCount := BitVec.twoPow cfg.pinCount i

/-- The two pin bits of one entry, `(1 << hi) | (1 << lo)`. -/
def pairBits (cfg : Config) (e : PinPair) : BitVec cfg.pinCount := pinBit cfg e.hi ||| pinBit cfg e.lo

/-- `LINES`: the pins that occur in `MAP` (41_scan_engine.md R120). -/
def matrixLines (cfg : Config) : BitVec cfg.pinCount :=
  cfg.map.foldr (fun e acc => pairBits cfg e ||| acc) 0

/-- The slice of a pattern that port `p` carries, `[PORT_W*p + PORT_W - 1 : PORT_W*p]` (20_memory.md R52). -/
def portSlice (cfg : Config) (pat : BitVec cfg.pinCount) (p : Nat) : BitVec cfg.portW :=
  pat.extractLsb' (cfg.portW * p) cfg.portW

/-- The line write: the whole pattern to every port in one transition (20_memory.md R53a, R55c, 41_scan_engine.md R124). -/
def writeLines {cfg : Config} (r : Regs cfg) (pat : BitVec cfg.pinCount) : Regs cfg := r.setOut pat

/-- `PERIOD` as a W-bit vector. -/
def periodTicks (cfg : Config) : BitVec cfg.counterW := BitVec.ofNat cfg.counterW cfg.period

end Sys2Proof.Machine
end

