-- ==== Sys2Proof/Machine/ScanEngine.lean ====
section
/-! DEFINITION. The Scan Engine: the functions `Lit`, `Pattern`, `Advance` and the commands `INIT`, `STEP`, `SHUTDOWN`
(41_scan_engine.md). -/

namespace Sys2Proof.Machine

variable {cfg : Config}

/-- The dimming test: `frame mod 8 != 0` and the LED is dim-eligible (41_scan_engine.md R122, 90_conflicts.md C1). -/
def dimSuppressed (dim : Word) (c f : Nat) : Bool := f % 8 != 0 && maskBit dim c

/-- The blink test: `(frame >> 6) mod 2 == 0` and the LED blinks (41_scan_engine.md R122, 90_conflicts.md C3). -/
def blinkSuppressed (blink : Word) (c f : Nat) : Bool := (f >>> 6) % 2 == 0 && maskBit blink c

/-- The illumination decision `Lit(on, dim, blink, c, f)` (41_scan_engine.md R122). -/
def lit (on dim blink : Word) (c f : Nat) : Bool :=
  maskBit on c && !dimSuppressed dim c f && !blinkSuppressed blink c f

/-- The drive pattern `Pattern(lit, c)` for the entry `MAP[c]`: `IDLE` with the two pin bits flipped, or `IDLE`
(41_scan_engine.md R123, 90_conflicts.md C6). -/
def pattern (cfg : Config) (isLit : Bool) (e : PinPair) : BitVec cfg.pinCount :=
  if isLit then cfg.idle ^^^ pinBit cfg e.hi ^^^ pinBit cfg e.lo else cfg.idle

/-- `c' = (c + 1) mod LED_COUNT` (41_scan_engine.md R126). -/
def nextCursor (cfg : Config) (c : BitVec cfg.cursorW) : BitVec cfg.cursorW :=
  BitVec.ofNat cfg.cursorW ((c.toNat + 1) % cfg.ledCount)

/-- `f' = (f + 1) mod 2^FRAME_W` when the new cursor is 0, else `f` (41_scan_engine.md R126). -/
def nextFrame {cfg : Config} (c' : BitVec cfg.cursorW) (f : BitVec cfg.frameW) : BitVec cfg.frameW :=
  if c' = 0 then f + 1 else f

/-- `Advance(c, f)` on the registers (41_scan_engine.md R126). -/
def advanceRegs (r : Regs cfg) : Regs cfg :=
  (r.setFrame (nextFrame (nextCursor cfg r.cursor) r.frame)).setCursor (nextCursor cfg r.cursor)

/-- The illumination decision for the LED at the cursor, with the cursor and frame of before the advance
(41_scan_engine.md R121). -/
def litNow (r : Regs cfg) : Bool := lit r.onMask r.dimMask r.blinkMask r.cursor.toNat r.frame.toNat

/-- The effect of `STEP` on the registers: decide, form the pattern, write the lines, advance (41_scan_engine.md R121). None when
`MAP` has no entry at the cursor. -/
def scanStep (r : Regs cfg) : Option (Regs cfg) :=
  match readMap cfg r.cursor.toNat with
  | none => none
  | some e => some (advanceRegs (writeLines r (pattern cfg (litNow r) e)))

/-- `INIT`'s writes (41_scan_engine.md R120). -/
def initRegs (r : Regs cfg) : Regs cfg :=
  { writeLines r cfg.idle with
    dir := matrixLines cfg
    cursor := 0
    frame := 0
    onMask := cfg.initOn
    dimMask := cfg.initDim
    blinkMask := cfg.initBlink }

/-- `SHUTDOWN`'s writes: the idle pattern, then every line an input (41_scan_engine.md R127). -/
def shutdownRegs (r : Regs cfg) : Regs cfg := (writeLines r cfg.idle).setDir 0

/-- `INIT` (41_scan_engine.md R120). -/
def execInit (s : State) : Result := .next (reply s (initRegs s.regs) 0)

/-- `STEP` (41_scan_engine.md R121); no error condition in any state with the cursor in range (R125). -/
def execStep (s : State) : Result :=
  match scanStep s.regs with
  | some r => .next (reply s r 0)
  | none => .fault .mapIndexOutOfTable

/-- `SHUTDOWN` (41_scan_engine.md R127). -/
def execShutdown (s : State) : Result := .next (reply s (shutdownRegs s.regs) 0)

end Sys2Proof.Machine
end

