-- ==== Sys2Proof/Machine/Deadline.lean ====
section
/-! DEFINITION. The Deadline Comparator: `sdiff`, `reached`, and the commands `ARM` and `POLL` (42_deadline.md). -/

namespace Sys2Proof.Machine

variable {cfg : Config}

/-- `sdiff(a, b) = (a - b) mod 2^W` (42_deadline.md R140). -/
def sdiffW {n : Nat} (a b : BitVec n) : BitVec n := a - b

/-- `reached(now, deadline)`: bit `W-1` of the reduced difference is 0 (42_deadline.md R140). -/
def reached {n : Nat} (now deadline : BitVec n) : Bool := !(sdiffW now deadline).msb

/-- `ARM`'s write: `deadline <- (counter + PERIOD) mod 2^W` (42_deadline.md R142). -/
def armRegs (r : Regs cfg) : Regs cfg := r.setDeadline (r.counter + periodTicks cfg)

/-- The re-arm of a firing `POLL`: `deadline <- (deadline + PERIOD) mod 2^W`, from the old deadline (42_deadline.md R143). -/
def rearmRegs (r : Regs cfg) : Regs cfg := r.setDeadline (r.deadline + periodTicks cfg)

/-- `ARM` (42_deadline.md R142). -/
def execArm (s : State) : Result := .next (reply s (armRegs s.regs) 0)

/-- `POLL` (42_deadline.md R143): not reached, `rsp <- 0` and nothing else; reached, one `STEP`, the re-arm, `rsp <- 1`. -/
def execPoll (s : State) : Result :=
  if reached s.regs.counter s.regs.deadline then
    match scanStep s.regs with
    | some r => .next (reply s (rearmRegs r) 1)
    | none => .fault .mapIndexOutOfTable
  else .next (reply s s.regs 0)

end Sys2Proof.Machine
end

