-- ==== Sys2Proof/Machine/MaskInterface.lean ====
section
/-! DEFINITION. The Mask interface: assign, set and clear on each of the three masks, one atomic whole-word update each, with no
validation (43_mask_interface.md R155 to R169). -/

namespace Sys2Proof.Machine

/-- Set bits: `old | m` (43_mask_interface.md R163 to R165). -/
def maskSet (old m : Word) : Word := old ||| m

/-- Clear bits: `old & ~m` (43_mask_interface.md R166 to R168). -/
def maskClear (old m : Word) : Word := old &&& ~~~m

/-- `WRON m` (43_mask_interface.md R160). -/
def execWron (m : Word) (s : State) : Result := .next (reply s (s.regs.setOnMask m) 0)

/-- `WRDIM m` (43_mask_interface.md R161). -/
def execWrdim (m : Word) (s : State) : Result := .next (reply s (s.regs.setDimMask m) 0)

/-- `WRBLINK m` (43_mask_interface.md R162). -/
def execWrblink (m : Word) (s : State) : Result := .next (reply s (s.regs.setBlinkMask m) 0)

/-- `SETON m` (43_mask_interface.md R163). -/
def execSeton (m : Word) (s : State) : Result := .next (reply s (s.regs.setOnMask (maskSet s.regs.onMask m)) 0)

/-- `SETDIM m` (43_mask_interface.md R164). -/
def execSetdim (m : Word) (s : State) : Result := .next (reply s (s.regs.setDimMask (maskSet s.regs.dimMask m)) 0)

/-- `SETBLINK m` (43_mask_interface.md R165). -/
def execSetblink (m : Word) (s : State) : Result :=
  .next (reply s (s.regs.setBlinkMask (maskSet s.regs.blinkMask m)) 0)

/-- `CLRON m` (43_mask_interface.md R166). -/
def execClron (m : Word) (s : State) : Result := .next (reply s (s.regs.setOnMask (maskClear s.regs.onMask m)) 0)

/-- `CLRDIM m` (43_mask_interface.md R167). -/
def execClrdim (m : Word) (s : State) : Result := .next (reply s (s.regs.setDimMask (maskClear s.regs.dimMask m)) 0)

/-- `CLRBLINK m` (43_mask_interface.md R168). -/
def execClrblink (m : Word) (s : State) : Result :=
  .next (reply s (s.regs.setBlinkMask (maskClear s.regs.blinkMask m)) 0)

end Sys2Proof.Machine
end

