-- ==== Sys2Proof/WellFormed.lean ====
section
/-! DEFINITION. Which commands a host written against the contracts can spell: the operand of `CONFIGURE` names a member of
`DIVISORS`. Operand widths are already in the types of `Instr`. -/

namespace Sys2Proof

/-- A divisor code names a member of the closed enumeration (10_state.md R22). -/
abbrev Params.DivselLegal (p : Params) (d : DivSel) : Prop := d.toNat < p.divisors.length

/-- A command is well formed for a configuration: the legality column of 30_encoding.md R71 (format `D`: `divsel <
length(DIVISORS)`; formats `Z` and `M`: nothing beyond what the type says). A reserved code is not illegal: it decodes, and
raises `ReservedDivisor` (R76). -/
def Instr.wellFormed (p : Params) : Instr → Bool
  | .configure d => decide (p.DivselLegal d)
  | .value => true
  | .rdif => true
  | .clrif _ => true
  | .rdim => true
  | .wrim _ => true
  | .init => true
  | .step => true
  | .shutdown => true
  | .arm => true
  | .poll => true
  | .wron _ => true
  | .wrdim _ => true
  | .wrblink _ => true
  | .seton _ => true
  | .setdim _ => true
  | .setblink _ => true
  | .clron _ => true
  | .clrdim _ => true
  | .clrblink _ => true

end Sys2Proof
end

