-- ==== Sys2Proof/Machine/TickSource.lean ====
section
/-! DEFINITION. The Tick Source: its two events and its six commands (40_tick_source.md). -/

namespace Sys2Proof.Machine

variable {cfg : Config}

/-- The event `TICK`: `counter <- (counter + 1) mod 2^W`, silently; nothing else changes (40_tick_source.md R100). -/
def tickRegs (r : Regs cfg) : Regs cfg := r.setCounter (r.counter + 1)

/-- The flag-set event: `iflag <- iflag | m` (40_tick_source.md R101). -/
def flagRegs (r : Regs cfg) (m : Word) : Regs cfg := r.setIflag (flagsSet r.iflag m)

/-- `CONFIGURE`'s writes: the code selected, `counter` and `iflag` zeroed; `imask` and `deadline` not (40_tick_source.md R102). -/
def configureRegs (r : Regs cfg) (d : DivSel) : Regs cfg := ((r.setDivsel d).setCounter 0).setIflag 0

/-- `CONFIGURE divsel` (40_tick_source.md R102): `ReservedDivisor` when the code names no member of `DIVISORS`
(60_exceptions.md R182), before any write. -/
def execConfigure (d : DivSel) (s : State) : Result :=
  if s.cfg.DivselLegal d then .next (reply s (configureRegs s.regs d) 0) else .next (raise s .reservedDivisor)

/-- `VALUE`: `rsp <- zext_32(counter)`; no state is written (40_tick_source.md R103). -/
def execValue (s : State) : Result := .next (reply s s.regs (zext32 s.regs.counter))

/-- `RDIF`: `rsp <- zext_32(iflag)`; reading does not clear (40_tick_source.md R104). -/
def execRdif (s : State) : Result := .next (reply s s.regs (zext32 s.regs.iflag))

/-- `CLRIF m`: `iflag <- iflag & ~m[IF_W-1:0]` (40_tick_source.md R105). -/
def execClrif (m : Word) (s : State) : Result :=
  .next (reply s (s.regs.setIflag (flagsCleared s.regs.iflag m)) 0)

/-- `RDIM`: `rsp <- zext_32(imask)` (40_tick_source.md R106). -/
def execRdim (s : State) : Result := .next (reply s s.regs (zext32 s.regs.imask))

/-- `WRIM m`: `imask <- m[IF_W-1:0]` (40_tick_source.md R107). -/
def execWrim (m : Word) (s : State) : Result := .next (reply s (s.regs.setImask (flagBits s.cfg m)) 0)

end Sys2Proof.Machine
end

