-- ==== Sys2Proof/Machine/Dispatch.lean ====
section
/-! DEFINITION. The meaning of each command, one arm per constructor. -/

namespace Sys2Proof.Machine

def exec (i : Instr) (s : State) : Host.Outcome State Fault Refusal :=
  match i with
  | .configure d => Sys2Proof.Machine.execConfigure d s
  | .value => Sys2Proof.Machine.execValue s
  | .rdif => Sys2Proof.Machine.execRdif s
  | .clrif m => Sys2Proof.Machine.execClrif m s
  | .rdim => Sys2Proof.Machine.execRdim s
  | .wrim m => Sys2Proof.Machine.execWrim m s
  | .init => Sys2Proof.Machine.execInit s
  | .step => Sys2Proof.Machine.execStep s
  | .shutdown => Sys2Proof.Machine.execShutdown s
  | .arm => Sys2Proof.Machine.execArm s
  | .poll => Sys2Proof.Machine.execPoll s
  | .wron m => Sys2Proof.Machine.execWron m s
  | .wrdim m => Sys2Proof.Machine.execWrdim m s
  | .wrblink m => Sys2Proof.Machine.execWrblink m s
  | .seton m => Sys2Proof.Machine.execSeton m s
  | .setdim m => Sys2Proof.Machine.execSetdim m s
  | .setblink m => Sys2Proof.Machine.execSetblink m s
  | .clron m => Sys2Proof.Machine.execClron m s
  | .clrdim m => Sys2Proof.Machine.execClrdim m s
  | .clrblink m => Sys2Proof.Machine.execClrblink m s

end Sys2Proof.Machine
end

