-- ==== Sys2Proof/Machine/Events.lean ====
section
/-! DEFINITION. One step of each agent: a host command (fetched from the command channel, decoded, executed), a `TICK`, a flag-set,
a reset (00_scope.md R12, 30_encoding.md R77, R78). -/

namespace Sys2Proof.Machine

/-- The event that acts next, and the state with it taken from the coming events. With no event to come the counter, the one agent
that needs no input ("always-incrementing", 40_tick_source.md R100), ticks. DESIGN CHOICE (log 6). -/
def nextEvent (s : State) : Event × State :=
  match s.inputs with
  | [] => (.tick, s)
  | e :: rest => (e, { s with inputs := rest })

/-- A command word on the channel: decode, and either take `IllegalCommand` or execute (30_encoding.md R77, 60_exceptions.md
R181). -/
def runCommand (w : CommandWord) (s : State) : Result :=
  match decode w with
  | .instr i => exec i s
  | .rejected _ => .next (raise s .illegalCommand)

/-- The event `RST` (70_reset_and_hazards.md R200): every register takes its reset value, and there is no response (10_state.md R40). -/
abbrev resetState (draw : ResetDraw) (s : State) : State := State.afterReset s.cfg draw s.inputs

/-- One event, atomic (20_memory.md R58, R60). -/
def runEvent (e : Event) (s : State) : Result :=
  match e with
  | .rst draw => .next (resetState draw s)
  | .tick => .next (silent s (tickRegs s.regs))
  | .flag m => .next (silent s (flagRegs s.regs m))
  | .cmd w => runCommand w s

/-- A command word of `nbits` bits put first on the command channel; the bits above `nbits` are 0. -/
def queueWord (s : State) (nbits w : Nat) : State :=
  { s with inputs := .cmd (BitVec.ofNat 40 (w % 2 ^ nbits)) :: s.inputs }

end Sys2Proof.Machine
end

