-- ==== Sys2Proof/Machine/Step.lean ====
section
/-! DEFINITION. One step of the machine, and how a command is placed where the next step takes it. -/

namespace Sys2Proof.Machine

/-- One step: the next event acts (00_scope.md R12). -/
def step (s : State) : Host.Outcome State Fault Refusal := runEvent (nextEvent s).1 (nextEvent s).2

/-- The state in which the host has put this command word first on the command channel: the block has no instruction memory
(10_state.md R30), so a program is the sequence of words the host sends (log 7). -/
def State.withFetchWord (s : State) (nbits w : Nat) : State := queueWord s nbits w

end Sys2Proof.Machine
end

