-- ==== Sys2Proof/Machine/Conversion.lean ====
section
/-! DEFINITION. The build-time conversion `duration_to_ticks` (40_tick_source.md R108 to R112). It has no hardware: its result
enters the block as the constant `PERIOD`. -/

namespace Sys2Proof.Machine

/-- `trunc0(q)`: truncation of a rational toward zero (00_scope.md R10, 40_tick_source.md R112). -/
def trunc0 (q : ℚ) : Int := Int.tdiv q.num q.den

/-- `duration_to_ticks(duration, divisor) = trunc0(duration * F_REF / divisor)` over exact rationals, `duration` in seconds, the
result not reduced (40_tick_source.md R108). -/
def durationToTicks (fRef : Nat) (duration : ℚ) (divisor : Nat) : Int :=
  trunc0 (duration * (fRef : ℚ) / (divisor : ℚ))

/-- The `PERIOD` of a build: the conversion for `DIVISORS[DIV0]`, refused at build time when it is not in `1 .. 2^(W-1)` or when
there is no such divisor (40_tick_source.md R110). -/
def buildPeriod (p : Params) (slotDuration : ℚ) : Option Nat :=
  match p.divisors[p.div0]? with
  | none => none
  | some divisor =>
    let n := durationToTicks p.fRef slotDuration divisor
    if 1 ≤ n ∧ n ≤ (2 ^ (p.counterW - 1) : Nat) then some n.toNat else none

end Sys2Proof.Machine
end

