-- ==== Sys2Proof/Machine/Outputs.lean ====
section
/-! DEFINITION. The outputs of the block as functions of its state: lines, ports, the interrupt request, the response channel
(10_state.md R34 to R36, R43; 20_memory.md R52; 30_encoding.md R72). -/

namespace Sys2Proof.Machine

variable {cfg : Config}

/-- The value of one output line: driven high or low, or not driven, written `Z` (10_state.md R34). -/
inductive LineLevel where
  | low
  | high
  | z
  deriving DecidableEq, Repr

/-- `line[i]`: driven to `out[i]` when `dir[i] = 1`, else not driven (10_state.md R34). -/
def Regs.line (r : Regs cfg) (i : Nat) : LineLevel :=
  if r.dir.getLsbD i then (if r.out.getLsbD i then .high else .low) else .z

/-- All lines, `line[0]` first. -/
def Regs.lines (r : Regs cfg) : List LineLevel := (List.range cfg.pinCount).map r.line

/-- What port `p` carries (20_memory.md R52). -/
def Regs.port (r : Regs cfg) (p : Nat) : BitVec cfg.portW := portSlice cfg r.out p

/-- LED `i` is lit, under the wiring premise of 00_scope.md R7 clause (d): `dir` covers every pin of `MAP` and `out` is the pattern
of entry `i` (10_state.md R35). -/
def Regs.showsLed (r : Regs cfg) (i : Nat) : Bool :=
  (r.dir &&& matrixLines cfg) == matrixLines cfg &&
    match readMap cfg i with
    | none => false
    | some e => r.out == pattern cfg true e

/-- The 2-bit code of a status (30_encoding.md R72). -/
def Status.code : Status → BitVec 2
  | .ok => 0
  | .illegalCommand => 1
  | .reservedDivisor => 2

/-- The output signals of 10_state.md R43. `rspValid` holds exactly after a command (R40, log 8); `rsp` and `status` are its, and 0
where there is none (DESIGN CHOICE, log 18). -/
structure Outputs where
  rspValid : Bool
  rsp : Word
  status : BitVec 2
  lines : List LineLevel
  irq : Bool
  deriving DecidableEq, Repr

/-- The output signals in a state. -/
def State.outputs (s : State) : Outputs :=
  match s.response with
  | none => { rspValid := false, rsp := 0, status := 0, lines := s.regs.lines, irq := s.regs.irq }
  | some a => { rspValid := true, rsp := a.rsp, status := a.status.code, lines := s.regs.lines, irq := s.regs.irq }

end Sys2Proof.Machine
end

