-- ==== Sys2Proof/Machine/Schedule.lean ====
section
/-! DEFINITION. Infinite runs, and the weak fairness of the counter that 40_tick_source.md R100 assumes of them. -/

namespace Sys2Proof.Machine

/-- What the agents do in an infinite run, event by event. It is beside the machine, not in its state (log 17). -/
abbrev Schedule := Nat → Event

/-- The `n` events of a schedule from the `k`-th on. -/
def Schedule.window (σ : Schedule) (k n : Nat) : List Event := (List.range n).map fun i => σ (k + i)

/-- The infinite run from `s`, state by state: each step takes the event that the schedule presents. -/
def Schedule.run (σ : Schedule) (s : State) : Nat → Result
  | 0 => .next s
  | n + 1 =>
    match σ.run s n with
    | .next t => step { t with inputs := σ n :: t.inputs }
    | .fault r => .fault r
    | .refused r => .refused r

/-- Weak fairness of the counter agent: in the infinite run infinitely many `TICK`s occur. `TICK` is enabled in every state, so
this is the whole of weak fairness (40_tick_source.md R100, 70_reset_and_hazards.md R214). -/
def Schedule.CounterFair (σ : Schedule) : Prop := ∀ n, ∃ m, n ≤ m ∧ σ m = .tick

end Sys2Proof.Machine
end

