-- ==== Sys2Proof/Safety.lean ====
section
/-! DEFINITION. What a good state is, and the words in which claims about runs are written. -/

namespace Sys2Proof.Machine

/-- The invariant of 10_state.md R29: `cursor < LED_COUNT`. -/
abbrev State.CursorInRange (s : State) : Prop := s.regs.cursor.toNat < s.cfg.ledCount

/-- `out` is `IDLE`, or `IDLE` with the two pin bits of one entry of `MAP` flipped (10_state.md R32). -/
abbrev Regs.OutIsAPattern {cfg : Config} (r : Regs cfg) : Prop :=
  r.out = cfg.idle ∨ ∃ e ∈ cfg.map, r.out = pattern cfg true e

/-- Nothing is driven, or exactly the matrix lines are and they carry a pattern (10_state.md R32, R33, 41_scan_engine.md R120). -/
abbrev Regs.LinesLegal {cfg : Config} (r : Regs cfg) : Prop :=
  r.dir = 0 ∨ (r.dir = matrixLines cfg ∧ r.OutIsAPattern)

/-- The invariant of every run: the cursor indexes the table, and the lines are in a legal state. -/
abbrev State.Inv (s : State) : Prop := s.CursorInRange ∧ s.regs.LinesLegal

/-- The command that an event makes the block execute, if any. -/
def Event.command : Event → Option Instr
  | .rst _ => none
  | .tick => none
  | .flag _ => none
  | .cmd w => (decode w).toOption

/-- The rows of the table of 30_encoding.md R74, as pairs `(match, mask)`. -/
def opcodeRows : List (CommandWord × CommandWord) :=
  [(0x1000000000, 0xFFFFFFFFF8), (0x1100000000, 0xFFFFFFFFFF), (0x1200000000, 0xFFFFFFFFFF), (0x1300000000, 0xFF00000000),
   (0x1400000000, 0xFFFFFFFFFF), (0x1500000000, 0xFF00000000), (0x2000000000, 0xFFFFFFFFFF), (0x2100000000, 0xFFFFFFFFFF),
   (0x2200000000, 0xFFFFFFFFFF), (0x3000000000, 0xFFFFFFFFFF), (0x3100000000, 0xFFFFFFFFFF), (0x4000000000, 0xFF00000000),
   (0x4100000000, 0xFF00000000), (0x4200000000, 0xFF00000000), (0x4400000000, 0xFF00000000), (0x4500000000, 0xFF00000000),
   (0x4600000000, 0xFF00000000), (0x4800000000, 0xFF00000000), (0x4900000000, 0xFF00000000), (0x4A00000000, 0xFF00000000)]

/-- The event is a reset. -/
def Event.isRst : Event → Bool
  | .rst _ => true
  | .tick => false
  | .flag _ => false
  | .cmd _ => false

/-- The event that the next step takes. -/
def State.nextEvent (s : State) : Event := (Machine.nextEvent s).1

/-- The event puts cursor and frame at 0: `INIT` or a reset (10_state.md R39). -/
def Event.startsScan (e : Event) : Bool := e.isRst || e.command == some .init

/-- The next step performs one `STEP`: it is the command `STEP`, or a `POLL` that fires (10_state.md R39). -/
def State.takesStep (s : State) : Bool :=
  s.nextEvent.command == some .step ||
    (s.nextEvent.command == some .poll && reached s.regs.counter s.regs.deadline)

/-- The number of `STEP`s performed in the next `n` steps, each firing `POLL` counted as one (10_state.md R39). -/
def stepsTaken : Nat → State → Nat
  | 0, _ => 0
  | n + 1, s =>
    (if s.takesStep then 1 else 0) +
      match step s with
      | .next t => stepsTaken n t
      | .fault _ => 0
      | .refused _ => 0

/-- The number of `TICK`s among the events. -/
def ticksIn (es : List Event) : Nat := es.count .tick

/-- The event neither resets the counter nor is a reset of the block: no `CONFIGURE`, no `RST` (20_memory.md R60). -/
def Event.keepsTimeBase (e : Event) : Bool :=
  !e.isRst && match e.command with
    | some (.configure _) => false
    | _ => true

/-- The event may stand between two poll points of 42_deadline.md R145: no `CONFIGURE`, `ARM`, `RST`, and not itself a `POLL`. -/
def Event.betweenPolls (e : Event) : Bool :=
  e.keepsTimeBase && e.command != some .arm && e.command != some .poll

/-- The event is no host command that moves the cursor. -/
def Event.leavesCursor (e : Event) : Bool :=
  !e.isRst && e.command != some .init && e.command != some .step && e.command != some .poll

/-- Segments of events, each followed by a `POLL`: the host program of 42_deadline.md R149 with what comes between its polls. -/
def pollSchedule (segs : List (List Event)) : List Event :=
  segs.flatMap fun seg => seg ++ [.cmd (encode .poll)]

/-- The unbounded counts behind the time base: the ticks `T`, the deadline `E` (42_deadline.md R141), and the ticks since the latest
poll point (R145). -/
structure Timeline where
  now : Nat
  due : Nat
  sincePoll : Nat
  deriving DecidableEq, Repr

/-- What an event does to the unbounded counts: a `TICK` counts, `ARM` and `POLL` are poll points, `ARM` sets the deadline, and a
`POLL` at or after the deadline advances it by the period (42_deadline.md R142, R143, R145). -/
def Timeline.after (tl : Timeline) (period : Nat) (e : Event) : Timeline :=
  if e = .tick then { tl with now := tl.now + 1, sincePoll := tl.sincePoll + 1 }
  else if e.command = some .arm then { tl with due := tl.now + period, sincePoll := 0 }
  else if e.command = some .poll then
    { tl with due := if tl.due ≤ tl.now then tl.due + period else tl.due, sincePoll := 0 }
  else tl

/-- Counter and deadline are the unbounded counts modulo 2^W, and the bounds of 42_deadline.md R145 (i) hold: with a poll gap of at
most `G <= PERIOD` ticks, the lateness is at least `-PERIOD` and below the ticks since the latest poll point. -/
structure State.OnTimeline (s : State) (G : Nat) (tl : Timeline) : Prop where
  counter : s.regs.counter.toNat = tl.now % 2 ^ s.cfg.counterW
  deadline : s.regs.deadline.toNat = tl.due % 2 ^ s.cfg.counterW
  notEarly : tl.due ≤ tl.now + s.cfg.period
  notLate : tl.now < tl.due + tl.sincePoll
  gap : tl.sincePoll ≤ G
  bound : G ≤ s.cfg.period

/-- The state with one more event before the coming ones. -/
abbrev State.push (s : State) (e : Event) : State := { s with inputs := e :: s.inputs }

/-- `n` steps of the machine. -/
abbrev runSteps (n : Nat) (s : State) : Result := Host.Core.run Sys2Proof.core n s

/-- `op` is the code of the `Z`-format command `i`: the word with `arg = 0` executes it, every other word of that `op` takes
`IllegalCommand` and changes no register (30_encoding.md R71, 60_exceptions.md R180, R181). -/
abbrev IsZCommand (op : OpCode) (i : Instr) : Prop :=
  ∀ (s : State) (arg : Word),
    step (s.push (.cmd (op ++ arg))) =
      if arg = 0 then exec i s else .next { s with response := some ⟨0, .illegalCommand⟩ }

/-- `op` is the code of the `M`-format command `mk`: every word of that `op` executes it with the whole `arg` as operand
(30_encoding.md R71, R73). -/
abbrev IsMCommand (op : OpCode) (mk : Word → Instr) : Prop :=
  ∀ (s : State) (arg : Word), step (s.push (.cmd (op ++ arg))) = exec (mk arg) s

/-- The two register files agree on everything but the interrupt flags, the interrupt mask and the divisor code. -/
structure Regs.AgreeOffInterrupts {cfg : Config} (r₁ r₂ : Regs cfg) : Prop where
  counter : r₁.counter = r₂.counter
  deadline : r₁.deadline = r₂.deadline
  onMask : r₁.onMask = r₂.onMask
  dimMask : r₁.dimMask = r₂.dimMask
  blinkMask : r₁.blinkMask = r₂.blinkMask
  cursor : r₁.cursor = r₂.cursor
  frame : r₁.frame = r₂.frame
  out : r₁.out = r₂.out
  dir : r₁.dir = r₂.dir

/-- The two register files agree on the Scan Engine's registers. -/
structure Regs.AgreeOnScan {cfg : Config} (r₁ r₂ : Regs cfg) : Prop where
  onMask : r₁.onMask = r₂.onMask
  dimMask : r₁.dimMask = r₂.dimMask
  blinkMask : r₁.blinkMask = r₂.blinkMask
  cursor : r₁.cursor = r₂.cursor
  frame : r₁.frame = r₂.frame
  out : r₁.out = r₂.out
  dir : r₁.dir = r₂.dir

end Sys2Proof.Machine
end

