-- ==== Sys2Proof/Certificates/Slice0/Obligations.lean ====
section
/-! DEFINITION. The statements about TTT-CORE for the provers. A statement over every `State` is over every well-formed
configuration, since a state carries its configuration. -/

open Sys2Proof Sys2Proof.Machine

/-! ### Encoding -/

/-- 30_encoding.md R74 and 95_test_vectors.md section 2.1: words of the table decode to the commands they stand for. -/
def Obligations.SpecWordsDecode : Prop :=
  decode 0x1000000004#40 = .instr (.configure 4) ∧ decode 0x1100000000#40 = .instr .value ∧
  decode 0x13FFFFFFFF#40 = .instr (.clrif 0xFFFFFFFF#32) ∧ decode 0x2100000000#40 = .instr .step ∧
  decode 0x3100000000#40 = .instr .poll ∧ decode 0x4007FFFFFF#40 = .instr (.wron 0x07FFFFFF#32) ∧
  decode 0x4280000000#40 = .instr (.wrblink 0x80000000#32) ∧ decode 0x4900000008#40 = .instr (.clrdim 8) ∧
  decode 0x1000000008#40 = .rejected .nonzeroDivselPad ∧ decode 0x2100000001#40 = .rejected .nonzeroArg ∧
  decode 0x4C00000001#40 = .rejected .unknownOp ∧ decode 0xFFFFFFFFFF#40 = .rejected .unknownOp

/-- 30_encoding.md R70 to R77: decoding and encoding are inverse, on every word and every command, every operand value included. -/
def Obligations.DecodeInvertsEncode : Prop :=
  ∀ (w : CommandWord) (i : Instr), decode w = .instr i ↔ w = encode i

/-- 30_encoding.md R76, 60_exceptions.md R180, R181: a word that matches no row of the table takes `IllegalCommand` and changes no
register; a word that matches a row executes the command it encodes, and it matches only that row (R77). -/
def Obligations.WordsOutsideTheTableAreIllegal : Prop :=
  ∀ (s : State) (w : CommandWord),
    ((∀ row ∈ opcodeRows, w &&& row.2 ≠ row.1) →
      step (s.push (.cmd w)) = .next { s with response := some ⟨0, .illegalCommand⟩ }) ∧
    ((∃ row ∈ opcodeRows, w &&& row.2 = row.1) →
      (∃ i, w = encode i ∧ step (s.push (.cmd w)) = exec i s) ∧ opcodeRows.countP (fun row => w &&& row.2 == row.1) = 1)

/-- 30_encoding.md R75: in the mask group `op[3:2]` is the action and `op[1:0]` the target; code 3 of either is illegal. -/
def Obligations.MaskGroupSubfields : Prop :=
  ∀ (low : BitVec 4) (m : Word),
    decode ((0x4#4 ++ low) ++ m) =
      match (low.extractLsb' 2 2).toNat, (low.extractLsb' 0 2).toNat with
      | 0, 0 => .instr (.wron m)
      | 0, 1 => .instr (.wrdim m)
      | 0, 2 => .instr (.wrblink m)
      | 1, 0 => .instr (.seton m)
      | 1, 1 => .instr (.setdim m)
      | 1, 2 => .instr (.setblink m)
      | 2, 0 => .instr (.clron m)
      | 2, 1 => .instr (.clrdim m)
      | 2, 2 => .instr (.clrblink m)
      | _, _ => .rejected .unknownOp

/-! ### The step and its agents -/

/-- 30_encoding.md R77 step (4), 20_memory.md R58: a step at a decodable command word is the execution of that command on the
state with the word taken from the channel. -/
def Obligations.StepRunsDecodedCommand : Prop :=
  ∀ (s : State) (w : CommandWord) (rest : List Event) (i : Instr),
    s.inputs = .cmd w :: rest → decode w = .instr i → step s = exec i { s with inputs := rest }

/-- 40_tick_source.md R100: `TICK` adds 1 to the counter modulo 2^W and changes no other register. That no response stands
after it is R40 of 10_state.md in the model's form (log 8, DEDUCED). -/
def Obligations.TickIncrementsCounterSilently : Prop :=
  ∀ s : State, ∃ c : BitVec s.cfg.counterW,
    c.toNat = (s.regs.counter.toNat + 1) % 2 ^ s.cfg.counterW ∧
    step (s.push .tick) = .next { s with regs := { s.regs with counter := c }, response := none }

/-- THE MODEL'S CHOICE, log 6: with no event to come the counter ticks. That no response stands after it: log 8, DEDUCED. -/
def Obligations.CounterRunsWhenNothingComes : Prop :=
  ∀ s : State, s.inputs = [] →
    step s = .next { s with regs := { s.regs with counter := s.regs.counter + 1 }, response := none }

/-- 40_tick_source.md R101: the flag-set event sets the flags of `m[IF_W-1:0]`, keeps the others, and
changes no other register. That no response stands after it is R40 of 10_state.md in the model's form (log 8, DEDUCED). -/
def Obligations.FlagEventSetsPendingFlags : Prop :=
  ∀ (s : State) (m : Word), ∃ f : BitVec s.cfg.ifW,
    (∀ k < s.cfg.ifW, f.getLsbD k = (s.regs.iflag.getLsbD k || m.getLsbD k)) ∧
    step (s.push (.flag m)) = .next { s with regs := { s.regs with iflag := f }, response := none }

/-- 10_state.md R42, 70_reset_and_hazards.md R200: `RST` gives every register the value of the table in one step, and each
combination of values of the four unspecified registers is left by some reset. That no response stands after it is
R40 in the model's form (log 8, DEDUCED). -/
def Obligations.ResetEventSetsEveryRegister : Prop :=
  ∀ s : State,
    (∀ draw : ResetDraw, ∃ (c d : BitVec s.cfg.counterW) (v : DivSel) (f : BitVec s.cfg.ifW),
      step (s.push (.rst draw)) =
        .next { s with
          regs := { counter := c, divsel := v, iflag := f, imask := 0, deadline := d, onMask := 0, dimMask := 0, blinkMask := 0,
                    cursor := 0, frame := 0, out := 0, dir := 0 },
          response := none }) ∧
    ∀ (c d : BitVec s.cfg.counterW) (v : DivSel) (f : BitVec s.cfg.ifW), ∃ draw : ResetDraw,
      step (s.push (.rst draw)) =
        .next { s with
          regs := { counter := c, divsel := v, iflag := f, imask := 0, deadline := d, onMask := 0, dimMask := 0, blinkMask := 0,
                    cursor := 0, frame := 0, out := 0, dir := 0 },
          response := none }

/-- 70_reset_and_hazards.md R201: just after a reset every line is an input and `irq` is 0, whatever the unspecified registers
hold. -/
def Obligations.NothingIsDrivenAfterReset : Prop :=
  ∀ (s t : State) (draw : ResetDraw), step (s.push (.rst draw)) = .next t →
    (∀ i, t.regs.line i = .z) ∧ t.regs.irq = false

/-! ### Tick Source -/

/-- 40_tick_source.md R102 (60_exceptions.md R182, order of checks R186a): `CONFIGURE` takes `IllegalCommand` when a must-be-zero bit
is set, else `ReservedDivisor` when the code is past the divisor list, either with no register changed; else it selects the code,
zeroes counter and flags, and writes nothing else. -/
def Obligations.ConfigureSelectsAndZeroes : Prop :=
  (∀ (s : State) (arg : Word),
    step (s.push (.cmd (0x10#8 ++ arg))) =
      if arg.toNat / 8 ≠ 0 then .next { s with response := some ⟨0, .illegalCommand⟩ }
      else if s.cfg.divisors.length ≤ arg.toNat % 8 then .next { s with response := some ⟨0, .reservedDivisor⟩ }
      else exec (.configure (arg.setWidth 3)) s) ∧
  ∀ (s : State) (d : DivSel), d.toNat < s.cfg.divisors.length →
    exec (.configure d) s =
      .next { s with regs := { s.regs with divsel := d, counter := 0, iflag := 0 }, response := some ⟨0, .ok⟩ }

/-- 40_tick_source.md R103: `VALUE` answers the counter zero-extended and writes no register. -/
def Obligations.ValueReadsCounter : Prop :=
  IsZCommand 0x11 .value ∧
  ∀ s : State, ∃ v : Word, v.toNat = s.regs.counter.toNat ∧ exec .value s = .next { s with response := some ⟨v, .ok⟩ }

/-- 40_tick_source.md R104: `RDIF` answers the flags zero-extended and does not clear them. -/
def Obligations.RdifReadsFlags : Prop :=
  IsZCommand 0x12 .rdif ∧
  ∀ s : State, ∃ v : Word, v.toNat = s.regs.iflag.toNat ∧ exec .rdif s = .next { s with response := some ⟨v, .ok⟩ }

/-- 40_tick_source.md R105: `CLRIF m` clears the flags whose bit in `m[IF_W-1:0]` is 1 and keeps the others. -/
def Obligations.ClrifClearsSelectedFlags : Prop :=
  IsMCommand 0x13 .clrif ∧
  ∀ (s : State) (m : Word), ∃ f : BitVec s.cfg.ifW,
    (∀ k < s.cfg.ifW, f.getLsbD k = (s.regs.iflag.getLsbD k && !m.getLsbD k)) ∧
    exec (.clrif m) s = .next { s with regs := { s.regs with iflag := f }, response := some ⟨0, .ok⟩ }

/-- 40_tick_source.md R106: `RDIM` answers the interrupt mask zero-extended. -/
def Obligations.RdimReadsMask : Prop :=
  IsZCommand 0x14 .rdim ∧
  ∀ s : State, ∃ v : Word, v.toNat = s.regs.imask.toNat ∧ exec .rdim s = .next { s with response := some ⟨v, .ok⟩ }

/-- 40_tick_source.md R107, 10_state.md R36: `WRIM m` writes `m[IF_W-1:0]`, and `irq` follows at once: it is 1 exactly when a
pending flag is enabled by `m`. -/
def Obligations.WrimSetsMaskAndIrqFollows : Prop :=
  IsMCommand 0x15 .wrim ∧
  ∀ (s : State) (m : Word), ∃ r : Regs s.cfg,
    r = { s.regs with imask := r.imask } ∧ (∀ k < s.cfg.ifW, r.imask.getLsbD k = m.getLsbD k) ∧
    (r.irq = true ↔ ∃ k < s.cfg.ifW, s.regs.iflag.getLsbD k = true ∧ m.getLsbD k = true) ∧
    exec (.wrim m) s = .next { s with regs := r, response := some ⟨0, .ok⟩ }

/-- 20_memory.md R60: over any events without `CONFIGURE` and `RST` the counter advances by the number of `TICK`s modulo 2^W. -/
def Obligations.CounterCountsTicks : Prop :=
  ∀ (s : State) (es : List Event), s.CursorInRange → (∀ e ∈ es, e.keepsTimeBase = true) →
    ∃ t, runSteps es.length { s with inputs := es ++ s.inputs } = .next t ∧ t.cfg = s.cfg ∧ t.inputs = s.inputs ∧
      t.regs.counter.toNat = (s.regs.counter.toNat + ticksIn es) % 2 ^ s.cfg.counterW

/-- 40_tick_source.md R108, R112: the conversion is the exact quotient truncated toward zero: the floor of a quotient that is not
negative, the ceiling of a negative one. -/
def Obligations.DurationTruncatesTowardZero : Prop :=
  ∀ (fRef divisor : Nat) (duration : ℚ), 1 ≤ divisor →
    durationToTicks fRef duration divisor =
      if 0 ≤ duration * fRef / divisor then ⌊duration * fRef / divisor⌋ else ⌈duration * fRef / divisor⌉

/-- 40_tick_source.md R110: a build has a `PERIOD` exactly when the conversion for `DIVISORS[DIV0]` lies in `1 .. 2^(W-1)`, and it
is that number. -/
def Obligations.BuildPeriodIsInRange : Prop :=
  ∀ (p : Params) (duration : ℚ) (n : Nat),
    buildPeriod p duration = some n ↔
      ∃ divisor, p.divisors[p.div0]? = some divisor ∧ durationToTicks p.fRef duration divisor = (n : Int) ∧
        1 ≤ n ∧ n ≤ 2 ^ (p.counterW - 1)

/-! ### Scan Engine -/

/-- 41_scan_engine.md R120: `INIT` makes exactly the pins of `MAP` outputs, writes `IDLE`, zeroes cursor and frame, loads the
initial masks, and writes nothing else. -/
def Obligations.InitBringsUpTheMatrix : Prop :=
  IsZCommand 0x20 .init ∧
  ∀ s : State, ∃ lines : BitVec s.cfg.pinCount,
    (∀ i, lines.getLsbD i = true ↔ ∃ e ∈ s.cfg.map, i = e.hi ∨ i = e.lo) ∧
    exec .init s =
      .next { s with
        regs := { s.regs with dir := lines, out := s.cfg.idle, cursor := 0, frame := 0, onMask := s.cfg.initOn,
                              dimMask := s.cfg.initDim, blinkMask := s.cfg.initBlink },
        response := some ⟨0, .ok⟩ }

/-- 41_scan_engine.md R121 to R124, R126: `STEP` with the cursor in the table. The decision and the pattern use the cursor and frame
of before the advance; every pin outside the entry has its `IDLE` value; nothing but `out`, `cursor`, `frame` is written. -/
def Obligations.StepDrivesOneSlot : Prop :=
  IsZCommand 0x21 .step ∧
  ∀ (s : State) (e : PinPair), s.cfg.map[s.regs.cursor.toNat]? = some e →
    ∃ (pat : BitVec s.cfg.pinCount) (c' : BitVec s.cfg.cursorW) (f' : BitVec s.cfg.frameW) (isLit : Bool),
      (isLit = true ↔
        s.regs.onMask.getLsbD s.regs.cursor.toNat = true ∧
        ¬(s.regs.frame.toNat % 8 ≠ 0 ∧ s.regs.dimMask.getLsbD s.regs.cursor.toNat = true) ∧
        ¬(s.regs.frame.toNat / 64 % 2 = 0 ∧ s.regs.blinkMask.getLsbD s.regs.cursor.toNat = true)) ∧
      (∀ i, pat.getLsbD i = if isLit = true ∧ (i = e.hi ∨ i = e.lo) then !s.cfg.idle.getLsbD i else s.cfg.idle.getLsbD i) ∧
      c'.toNat = (s.regs.cursor.toNat + 1) % s.cfg.ledCount ∧
      f'.toNat = (if c'.toNat = 0 then (s.regs.frame.toNat + 1) % 2 ^ s.cfg.frameW else s.regs.frame.toNat) ∧
      exec .step s = .next { s with regs := { s.regs with out := pat, cursor := c', frame := f' }, response := some ⟨0, .ok⟩ }

/-- 41_scan_engine.md R127: `SHUTDOWN` writes `IDLE` and makes every line an input; the scan state and the counter are kept, and
every line is `Z`. -/
def Obligations.ShutdownReleasesTheLines : Prop :=
  IsZCommand 0x22 .shutdown ∧
  ∀ s : State, ∃ r : Regs s.cfg,
    r = { s.regs with out := s.cfg.idle, dir := 0 } ∧ (∀ i, r.line i = .z) ∧
    exec .shutdown s = .next { s with regs := r, response := some ⟨0, .ok⟩ }

/-- 41_scan_engine.md R134, R122, R133: the truth table of the illumination decision. The last row, dim and blink both set, rests on
decision D31 (93_implementation_defined.md U6; log 15, DEDUCED). -/
def Obligations.LitTruthTable : Prop :=
  ∀ (on dim blink : Word) (c f : Nat),
    (on.getLsbD c = false → lit on dim blink c f = false) ∧
    (on.getLsbD c = true →
      (dim.getLsbD c = false → blink.getLsbD c = false → lit on dim blink c f = true) ∧
      (dim.getLsbD c = true → blink.getLsbD c = false → (lit on dim blink c f = true ↔ f % 8 = 0)) ∧
      (dim.getLsbD c = false → blink.getLsbD c = true → (lit on dim blink c f = true ↔ f.testBit 6 = true)) ∧
      (dim.getLsbD c = true → blink.getLsbD c = true → (lit on dim blink c f = true ↔ f % 8 = 0 ∧ f.testBit 6 = true)))

/-- 41_scan_engine.md R128, 90_conflicts.md C6: after a `STEP` the lines differ from `IDLE` in no bit, or in exactly the two bits of
the entry serviced, its drive-high pin 1 and its drive-low pin 0. -/
def Obligations.AtMostOneLedIsDriven : Prop :=
  ∀ (s : State) (e : PinPair), s.cfg.map[s.regs.cursor.toNat]? = some e →
    ∃ r : Regs s.cfg, exec .step s = .next { s with regs := r, response := some ⟨0, .ok⟩ } ∧
      (r.out = s.cfg.idle ∨
        (r.out.getLsbD e.hi = true ∧ r.out.getLsbD e.lo = false ∧
          ∀ i, (r.out ^^^ s.cfg.idle).getLsbD i = true ↔ i = e.hi ∨ i = e.lo))

/-- 41_scan_engine.md R129: from any state, `LED_COUNT` `STEP`s bring the cursor back and add exactly 1 to the frame modulo
2^FRAME_W, whatever the masks hold; only `out` and the frame differ afterwards. -/
def Obligations.SweepLaw : Prop :=
  ∀ s : State, s.CursorInRange →
    ∃ pat : BitVec s.cfg.pinCount,
      runSteps s.cfg.ledCount { s with inputs := List.replicate s.cfg.ledCount (.cmd (encode .step)) ++ s.inputs } =
        .next { s with regs := { s.regs with out := pat, frame := s.regs.frame + 1 }, response := some ⟨0, .ok⟩ }

/-- 10_state.md R39: `INIT` and every reset put cursor and frame at 0; over any events after that, other than `INIT` and `RST`, the
cursor is the number of `STEP`s modulo `LED_COUNT` and the frame that number div `LED_COUNT` modulo 2^FRAME_W, a firing `POLL` counting
as one `STEP`. The last clause ties the count down: of `n` `STEP` commands in a row it is `n`. -/
def Obligations.SequencingLaw : Prop :=
  (∀ (s : State) (e : Event), e.startsScan = true →
    ∃ t, step (s.push e) = .next t ∧ t.cfg = s.cfg ∧ t.regs.cursor = 0 ∧ t.regs.frame = 0) ∧
  (∀ (s : State) (es : List Event), s.regs.cursor = 0 → s.regs.frame = 0 → (∀ e ∈ es, e.startsScan = false) →
    ∃ t, runSteps es.length { s with inputs := es ++ s.inputs } = .next t ∧ t.cfg = s.cfg ∧ t.inputs = s.inputs ∧
      t.regs.cursor.toNat = stepsTaken es.length { s with inputs := es ++ s.inputs } % s.cfg.ledCount ∧
      t.regs.frame.toNat =
        stepsTaken es.length { s with inputs := es ++ s.inputs } / s.cfg.ledCount % 2 ^ s.cfg.frameW) ∧
  ∀ (s : State) (n : Nat), s.CursorInRange →
    stepsTaken n { s with inputs := List.replicate n (.cmd (encode .step)) ++ s.inputs } = n

/-- 41_scan_engine.md R130: an LED that is on, dim-eligible and not blinking is lit in exactly one of every 8 consecutive frames,
the one with `frame mod 8 = 0`, across the wrap of the frame counter too; an LED that is not dim-eligible is not affected by
`frame[2:0]`. -/
def Obligations.DimmingLaw : Prop :=
  ∀ (cfg : Config) (on dim blink : Word) (c f : Nat),
    (on.getLsbD c = true → dim.getLsbD c = true → blink.getLsbD c = false →
      ((List.range 8).countP fun k => lit on dim blink c ((f + k) % 2 ^ cfg.frameW)) = 1 ∧
      ∀ k, lit on dim blink c ((f + k) % 2 ^ cfg.frameW) = true ↔ (f + k) % 8 = 0) ∧
    (dim.getLsbD c = false → ∀ low < 8, lit on dim blink c (f / 8 * 8 + low) = lit on dim blink c f)

/-- 41_scan_engine.md R131, 90_conflicts.md C3: an LED that is on, blinking and not dim-eligible is dark in the frames with
`frame mod 128 < 64` and lit in the others, 64 of every 128 consecutive frames, across the wrap of the frame counter too. -/
def Obligations.BlinkLaw : Prop :=
  ∀ (cfg : Config) (on dim blink : Word) (c f : Nat),
    on.getLsbD c = true → dim.getLsbD c = false → blink.getLsbD c = true →
      ((List.range 128).countP fun k => lit on dim blink c ((f + k) % 2 ^ cfg.frameW)) = 64 ∧
      ∀ k, lit on dim blink c ((f + k) % 2 ^ cfg.frameW) = true ↔ 64 ≤ (f + k) % 128

/-- 41_scan_engine.md R132: an LED with all three mask bits set is lit in exactly 8 of every 128 consecutive frames, those with
`frame mod 128` in the list. It rests on decision D31 (93_implementation_defined.md U6; log 15, DEDUCED). -/
def Obligations.BothModulationsLaw : Prop :=
  ∀ (cfg : Config) (on dim blink : Word) (c f : Nat),
    on.getLsbD c = true → dim.getLsbD c = true → blink.getLsbD c = true →
      ((List.range 128).countP fun k => lit on dim blink c ((f + k) % 2 ^ cfg.frameW)) = 8 ∧
      ∀ k, lit on dim blink c ((f + k) % 2 ^ cfg.frameW) = true ↔ (f + k) % 128 ∈ [64, 72, 80, 88, 96, 104, 112, 120]

/-- 20_memory.md R53(b), R59, 43_mask_interface.md R155: a `STEP` reads one bit of each mask, the one at the cursor: any masks that
agree there (so any change of the bits at `LED_COUNT` and above, or of other LEDs' bits) give the same lines and the same advance. -/
def Obligations.StepReadsOneBitOfEachMask : Prop :=
  ∀ (s : State) (on dim blink : Word), s.CursorInRange →
    on.getLsbD s.regs.cursor.toNat = s.regs.onMask.getLsbD s.regs.cursor.toNat →
    dim.getLsbD s.regs.cursor.toNat = s.regs.dimMask.getLsbD s.regs.cursor.toNat →
    blink.getLsbD s.regs.cursor.toNat = s.regs.blinkMask.getLsbD s.regs.cursor.toNat →
      ∃ r : Regs s.cfg, exec .step s = .next { s with regs := r, response := some ⟨0, .ok⟩ } ∧
        exec .step { s with regs := { s.regs with onMask := on, dimMask := dim, blinkMask := blink } } =
          .next { s with regs := { r with onMask := on, dimMask := dim, blinkMask := blink }, response := some ⟨0, .ok⟩ }

/-! ### Lines and ports -/

/-- 20_memory.md R52: pin identifier `i` is bit `i mod PORT_W` of port `i div PORT_W`, which is one of the block's ports. -/
def Obligations.PinIsABitOfItsPort : Prop :=
  ∀ (cfg : Config) (r : Regs cfg) (i : Nat), i < cfg.pinCount →
    i / cfg.portW < cfg.portCount ∧ (r.port (i / cfg.portW)).getLsbD (i % cfg.portW) = r.out.getLsbD i

/-- 10_state.md R34 with 41_scan_engine.md R120: after `INIT` the pins of `MAP` are driven to their `IDLE` values and every other line
is `Z`. -/
def Obligations.InitDrivesTheIdlePattern : Prop :=
  ∀ s : State, ∃ r : Regs s.cfg, exec .init s = .next { s with regs := r, response := some ⟨0, .ok⟩ } ∧
    ∀ i, ((∃ e ∈ s.cfg.map, i = e.hi ∨ i = e.lo) → r.line i = if s.cfg.idle.getLsbD i then .high else .low) ∧
      ((¬∃ e ∈ s.cfg.map, i = e.hi ∨ i = e.lo) → r.line i = .z)

/-! ### Deadline Comparator -/

/-- 42_deadline.md R142: `ARM` sets the deadline one period after now, modulo 2^W, and writes nothing else. -/
def Obligations.ArmSetsDeadlineOnePeriodAhead : Prop :=
  IsZCommand 0x30 .arm ∧
  ∀ s : State, ∃ d : BitVec s.cfg.counterW,
    d.toNat = (s.regs.counter.toNat + s.cfg.period) % 2 ^ s.cfg.counterW ∧
    exec .arm s = .next { s with regs := { s.regs with deadline := d }, response := some ⟨0, .ok⟩ }

/-- 42_deadline.md R143 with R140: when bit `W-1` of `counter - deadline` is 1, `POLL` answers 0 and writes no register; when it is
0, `POLL` does exactly what `STEP` does, then advances the old deadline by one period modulo 2^W, and answers 1. -/
def Obligations.PollStepsAndRearmsAtTheDeadline : Prop :=
  IsZCommand 0x31 .poll ∧
  ∀ s : State,
    (2 ^ (s.cfg.counterW - 1) ≤ (s.regs.counter.toNat + (2 ^ s.cfg.counterW - s.regs.deadline.toNat)) % 2 ^ s.cfg.counterW →
      exec .poll s = .next { s with response := some ⟨0, .ok⟩ }) ∧
    ((s.regs.counter.toNat + (2 ^ s.cfg.counterW - s.regs.deadline.toNat)) % 2 ^ s.cfg.counterW < 2 ^ (s.cfg.counterW - 1) →
      s.CursorInRange →
      ∃ (r : Regs s.cfg) (d : BitVec s.cfg.counterW),
        exec .step s = .next { s with regs := r, response := some ⟨0, .ok⟩ } ∧
        d.toNat = (s.regs.deadline.toNat + s.cfg.period) % 2 ^ s.cfg.counterW ∧
        exec .poll s = .next { s with regs := { r with deadline := d }, response := some ⟨1, .ok⟩ })

/-- 42_deadline.md R150: the laws of `sdiff`. -/
def Obligations.SdiffLaws : Prop :=
  ∀ (n : Nat) (a b k : BitVec n),
    (sdiffW a b = 0 ↔ a = b) ∧ sdiffW a b + sdiffW b a = 0 ∧ sdiffW (a + k) (b + k) = sdiffW a b

/-- 42_deadline.md R141: inside the window the sign of the reduced difference is the sign of the true difference. -/
def Obligations.ReachedIsRightInsideTheWindow : Prop :=
  ∀ (n : Nat) (now due : Int), 1 ≤ n → -(2 ^ (n - 1) : Int) ≤ now - due → now - due ≤ (2 ^ (n - 1) : Int) - 1 →
    (sdiffW (BitVec.ofInt n now) (BitVec.ofInt n due)).toInt = now - due ∧
    (reached (BitVec.ofInt n now) (BitVec.ofInt n due) = true ↔ due ≤ now)

/-- 70_reset_and_hazards.md R205(c): for a given counter, exactly half of the `2^W` deadlines are reached. -/
def Obligations.HalfOfTheDeadlinesAreReached : Prop :=
  ∀ (n : Nat) (now : BitVec n), 1 ≤ n →
    ((List.range (2 ^ n)).countP fun d => reached now (BitVec.ofNat n d)) = 2 ^ (n - 1)

/-- 42_deadline.md R145 (i) and (ii), with R144 and R146: THE SCHEDULING THEOREM. After `ARM`, let any events except `CONFIGURE`,
`ARM` and `RST` come between polls, at most `G <= PERIOD` ticks from each poll point to the next. Then after any number of polls, `T`
ticks after `ARM`, the machine runs, the deadline is on the fixed grid just above `T`, and the last `POLL`, with `T0` ticks before its
own gap, fired exactly when a grid point `k * PERIOD` lies in `(T0, T]`. If nothing else moves the cursor, it moved once for every
deadline passed. Counter and deadline may wrap any number of times. -/
def Obligations.SchedulingTheorem : Prop :=
  ∀ (s : State) (segs : List (List Event)) (last : List Event) (G : Nat),
    s.CursorInRange → G ≤ s.cfg.period →
    (∀ seg ∈ segs ++ [last], (∀ e ∈ seg, e.betweenPolls = true) ∧ ticksIn seg ≤ G) →
    ∃ t, runSteps (1 + (pollSchedule (segs ++ [last])).length)
        { s with inputs := .cmd (encode .arm) :: (pollSchedule (segs ++ [last]) ++ s.inputs) } = .next t ∧
      t.cfg = s.cfg ∧ t.inputs = s.inputs ∧
      t.regs.counter.toNat = (s.regs.counter.toNat + ticksIn (segs ++ [last]).flatten) % 2 ^ s.cfg.counterW ∧
      t.regs.deadline.toNat =
        (s.regs.counter.toNat + (ticksIn (segs ++ [last]).flatten / s.cfg.period + 1) * s.cfg.period) % 2 ^ s.cfg.counterW ∧
      t.response =
        some ⟨if ticksIn segs.flatten / s.cfg.period < ticksIn (segs ++ [last]).flatten / s.cfg.period then 1 else 0, .ok⟩ ∧
      ((∀ seg ∈ segs ++ [last], ∀ e ∈ seg, e.leavesCursor = true) →
        t.regs.cursor.toNat =
          (s.regs.cursor.toNat + ticksIn (segs ++ [last]).flatten / s.cfg.period) % s.cfg.ledCount)

/-- 42_deadline.md R147(a): with lateness `L` inside the window and no tick between polls, each `POLL` fires one `STEP` until the
deadline is ahead again: the first `L div PERIOD + 1` fire, the next does not. -/
def Obligations.LatePollsCatchUp : Prop :=
  ∀ (s : State) (n : Nat), s.CursorInRange →
    (sdiffW s.regs.counter s.regs.deadline).toNat < 2 ^ (s.cfg.counterW - 1) →
    n ≤ (sdiffW s.regs.counter s.regs.deadline).toNat / s.cfg.period + 1 →
    ∃ t, runSteps (n + 1) { s with inputs := List.replicate (n + 1) (.cmd (encode .poll)) ++ s.inputs } = .next t ∧
      t.response =
        some ⟨if n = (sdiffW s.regs.counter s.regs.deadline).toNat / s.cfg.period + 1 then 0 else 1, .ok⟩ ∧
      t.regs.counter.toNat = s.regs.counter.toNat ∧
      t.regs.cursor.toNat =
        (s.regs.cursor.toNat + min (n + 1) ((sdiffW s.regs.counter s.regs.deadline).toNat / s.cfg.period + 1)) % s.cfg.ledCount

/-- 42_deadline.md R148, 40_tick_source.md R100: from every state, after finitely many ticks (at most half the counter's range) a
`POLL` fires. -/
def Obligations.PollEventuallyFires : Prop :=
  ∀ s : State, s.CursorInRange → ∃ k ≤ 2 ^ (s.cfg.counterW - 1), ∃ t,
    runSteps (k + 1) { s with inputs := List.replicate k .tick ++ .cmd (encode .poll) :: s.inputs } = .next t ∧
    t.response = some ⟨1, .ok⟩

/-- 42_deadline.md R148, 40_tick_source.md R100, under the premises of R145: in an infinite run that begins with `ARM`, has no other
`ARM`, no `CONFIGURE` and no `RST`, has at most `G <= PERIOD` ticks between poll points, and goes on polling for ever, infinitely many
`POLL`s fire if the counter agent is weakly fair. -/
def Obligations.FairPollingFiresForever : Prop :=
  ∀ (s : State) (σ : Schedule) (G : Nat), s.CursorInRange → G ≤ s.cfg.period →
    σ 0 = .cmd (encode .arm) →
    (∀ n, 1 ≤ n → (σ n).keepsTimeBase = true ∧ (σ n).command ≠ some .arm) →
    (∀ k n, (∀ i < n, (σ (k + i)).command ≠ some .poll) → ticksIn (σ.window k n) ≤ G) →
    (∀ n, ∃ m, n ≤ m ∧ (σ m).command = some .poll) →
    σ.CounterFair →
    ∀ n, ∃ m, n ≤ m ∧ (σ m).command = some .poll ∧ ∃ t, σ.run s (m + 1) = .next t ∧ t.response = some ⟨1, .ok⟩

/-- 42_deadline.md R145 (i), R141, R144: `ARM` puts the machine on a timeline of unbounded counts, and every step but `CONFIGURE` and
`RST` keeps it there as long as at most `G <= PERIOD` ticks come between poll points: counter and deadline are the unbounded tick count
and deadline modulo 2^W, the lateness stays in `-PERIOD .. G - 1`, and a `POLL` fires exactly when the deadline is not later than the
tick count. -/
def Obligations.StepKeepsTheTimeline : Prop :=
  (∀ (s : State) (G : Nat), G ≤ s.cfg.period →
    ∃ t, exec .arm s = .next t ∧
      t.OnTimeline G ⟨s.regs.counter.toNat, s.regs.counter.toNat + s.cfg.period, 0⟩) ∧
  ∀ (s t : State) (G : Nat) (tl : Timeline), s.OnTimeline G tl → s.nextEvent.keepsTimeBase = true →
    (s.nextEvent = .tick → tl.sincePoll < G) → step s = .next t →
    t.OnTimeline G (tl.after s.cfg.period s.nextEvent) ∧
      (s.nextEvent.command = some .poll → t.response = some ⟨if tl.due ≤ tl.now then 1 else 0, .ok⟩)

/-! ### Mask interface -/

/-- 43_mask_interface.md R160 to R162: assignment stores all 32 bits of the operand and touches no other register. -/
def Obligations.WriteMaskCommands : Prop :=
  IsMCommand 0x40 .wron ∧ IsMCommand 0x41 .wrdim ∧ IsMCommand 0x42 .wrblink ∧
  ∀ (s : State) (m : Word),
    exec (.wron m) s = .next { s with regs := { s.regs with onMask := m }, response := some ⟨0, .ok⟩ } ∧
    exec (.wrdim m) s = .next { s with regs := { s.regs with dimMask := m }, response := some ⟨0, .ok⟩ } ∧
    exec (.wrblink m) s = .next { s with regs := { s.regs with blinkMask := m }, response := some ⟨0, .ok⟩ }

/-- 43_mask_interface.md R163 to R165: setting bits, bit by bit, in one mask and no other register. -/
def Obligations.SetMaskCommands : Prop :=
  IsMCommand 0x44 .seton ∧ IsMCommand 0x45 .setdim ∧ IsMCommand 0x46 .setblink ∧
  ∀ (s : State) (m : Word), ∃ on dim blink : Word,
    (∀ k < 32, on.getLsbD k = (s.regs.onMask.getLsbD k || m.getLsbD k) ∧
      dim.getLsbD k = (s.regs.dimMask.getLsbD k || m.getLsbD k) ∧
      blink.getLsbD k = (s.regs.blinkMask.getLsbD k || m.getLsbD k)) ∧
    exec (.seton m) s = .next { s with regs := { s.regs with onMask := on }, response := some ⟨0, .ok⟩ } ∧
    exec (.setdim m) s = .next { s with regs := { s.regs with dimMask := dim }, response := some ⟨0, .ok⟩ } ∧
    exec (.setblink m) s = .next { s with regs := { s.regs with blinkMask := blink }, response := some ⟨0, .ok⟩ }

/-- 43_mask_interface.md R166 to R168: clearing bits, bit by bit, in one mask and no other register. -/
def Obligations.ClearMaskCommands : Prop :=
  IsMCommand 0x48 .clron ∧ IsMCommand 0x49 .clrdim ∧ IsMCommand 0x4A .clrblink ∧
  ∀ (s : State) (m : Word), ∃ on dim blink : Word,
    (∀ k < 32, on.getLsbD k = (s.regs.onMask.getLsbD k && !m.getLsbD k) ∧
      dim.getLsbD k = (s.regs.dimMask.getLsbD k && !m.getLsbD k) ∧
      blink.getLsbD k = (s.regs.blinkMask.getLsbD k && !m.getLsbD k)) ∧
    exec (.clron m) s = .next { s with regs := { s.regs with onMask := on }, response := some ⟨0, .ok⟩ } ∧
    exec (.clrdim m) s = .next { s with regs := { s.regs with dimMask := dim }, response := some ⟨0, .ok⟩ } ∧
    exec (.clrblink m) s = .next { s with regs := { s.regs with blinkMask := blink }, response := some ⟨0, .ok⟩ }

/-- 43_mask_interface.md R169, for each of the three masks: setting and then clearing the same bits leaves them clear, clearing and
then setting leaves them set, and both leave the other bits of that mask, and every other register, as they were. -/
def Obligations.SetThenClearRelations : Prop :=
  ∀ (s : State) (m : Word), ∃ onC onS dimC dimS blinkC blinkS : Word,
    (∀ k < 32,
      onC.getLsbD k = (if m.getLsbD k = true then false else s.regs.onMask.getLsbD k) ∧
      onS.getLsbD k = (if m.getLsbD k = true then true else s.regs.onMask.getLsbD k) ∧
      dimC.getLsbD k = (if m.getLsbD k = true then false else s.regs.dimMask.getLsbD k) ∧
      dimS.getLsbD k = (if m.getLsbD k = true then true else s.regs.dimMask.getLsbD k) ∧
      blinkC.getLsbD k = (if m.getLsbD k = true then false else s.regs.blinkMask.getLsbD k) ∧
      blinkS.getLsbD k = (if m.getLsbD k = true then true else s.regs.blinkMask.getLsbD k)) ∧
    runSteps 2 { s with inputs := .cmd (encode (.seton m)) :: .cmd (encode (.clron m)) :: s.inputs } =
      .next { s with regs := { s.regs with onMask := onC }, response := some ⟨0, .ok⟩ } ∧
    runSteps 2 { s with inputs := .cmd (encode (.clron m)) :: .cmd (encode (.seton m)) :: s.inputs } =
      .next { s with regs := { s.regs with onMask := onS }, response := some ⟨0, .ok⟩ } ∧
    runSteps 2 { s with inputs := .cmd (encode (.setdim m)) :: .cmd (encode (.clrdim m)) :: s.inputs } =
      .next { s with regs := { s.regs with dimMask := dimC }, response := some ⟨0, .ok⟩ } ∧
    runSteps 2 { s with inputs := .cmd (encode (.clrdim m)) :: .cmd (encode (.setdim m)) :: s.inputs } =
      .next { s with regs := { s.regs with dimMask := dimS }, response := some ⟨0, .ok⟩ } ∧
    runSteps 2 { s with inputs := .cmd (encode (.setblink m)) :: .cmd (encode (.clrblink m)) :: s.inputs } =
      .next { s with regs := { s.regs with blinkMask := blinkC }, response := some ⟨0, .ok⟩ } ∧
    runSteps 2 { s with inputs := .cmd (encode (.clrblink m)) :: .cmd (encode (.setblink m)) :: s.inputs } =
      .next { s with regs := { s.regs with blinkMask := blinkS }, response := some ⟨0, .ok⟩ }

/-! ### The whole machine -/

/-- 10_state.md R29, R32: `State.reset`, and every machine just after a reset, meets the invariant. -/
def Obligations.ResetMeetsInvariant : Prop :=
  State.reset.Inv ∧ ∀ (cfg : Config) (draw : ResetDraw) (inputs : List Event), (State.afterReset cfg draw inputs).Inv

/-- 10_state.md R29, R32, R33: every step keeps the invariant: the cursor stays below `LED_COUNT`, and either nothing is driven or
exactly the matrix lines are, with the idle pattern or the pattern of one entry. -/
def Obligations.StepKeepsInvariant : Prop :=
  ∀ s t : State, s.Inv → step s = .next t → t.Inv

/-- 41_scan_engine.md R125, 60_exceptions.md R183: with the cursor in range no event stops the machine. -/
def Obligations.NoFatalCondition : Prop :=
  ∀ s : State, s.CursorInRange → ∃ t, step s = .next t

/-- 10_state.md R32: `INIT` makes `out` a pattern, and every later step but a reset keeps it one. -/
def Obligations.OutStaysAPattern : Prop :=
  (∀ s t : State, exec .init s = .next t → t.regs.OutIsAPattern) ∧
  ∀ s t : State, s.regs.OutIsAPattern → s.nextEvent.isRst = false → step s = .next t → t.regs.OutIsAPattern

/-- 10_state.md R40, R43, 30_encoding.md R72: a response exists only during a command: after a step there is one, and the channel
shows it, exactly when the step was a command word; with a status other than `OK` its `rsp` is 0 and the command changed no register. That
the state a step leaves holds the command's response, and that `rsp_valid` is set exactly then, is the model's form of R40 (log 8,
DEDUCED; R43 leaves the handshake unspecified). -/
def Obligations.ResponseExistsOnlyDuringACommand : Prop :=
  ∀ s t : State, step s = .next t →
    (t.outputs.rspValid = true ↔ ∃ w, s.nextEvent = .cmd w) ∧
    ((∃ w, s.nextEvent = .cmd w) ↔ ∃ a, t.response = some a) ∧
    ∀ a, t.response = some a →
      t.outputs.rsp = a.rsp ∧ t.outputs.status = a.status.code ∧
        (a.status ≠ .ok → t = { s with response := some ⟨0, a.status⟩, inputs := s.inputs.tail })

/-- 20_memory.md R63: no step changes the configuration. -/
def Obligations.ConfigurationNeverChanges : Prop :=
  ∀ s t : State, step s = .next t → t.cfg = s.cfg

/-- 10_state.md R22: a reserved divisor code is never written: whatever a step other than a reset does, a legal code stays legal, and a
code that changed is legal. -/
def Obligations.ReservedDivisorIsNeverWritten : Prop :=
  ∀ s t : State, s.nextEvent.isRst = false → step s = .next t →
    t.regs.divsel = s.regs.divsel ∨ t.regs.divsel.toNat < t.cfg.divisors.length

/-- 10_state.md R20, the column "written by": a step other than a reset changes a register only if its event is one of those the table
names for it. -/
def Obligations.RegistersAreWrittenOnlyAsTabled : Prop :=
  ∀ s t : State, step s = .next t → s.nextEvent.isRst = false →
    ∃ r : Regs s.cfg, t = { s with regs := r, response := t.response, inputs := s.inputs.tail } ∧
      (r.counter = s.regs.counter ∨ s.nextEvent = .tick ∨ ∃ d, s.nextEvent.command = some (.configure d)) ∧
      (r.divsel = s.regs.divsel ∨ ∃ d, s.nextEvent.command = some (.configure d)) ∧
      (r.iflag = s.regs.iflag ∨ (∃ m, s.nextEvent = .flag m) ∨ (∃ d, s.nextEvent.command = some (.configure d)) ∨
        ∃ m, s.nextEvent.command = some (.clrif m)) ∧
      (r.imask = s.regs.imask ∨ ∃ m, s.nextEvent.command = some (.wrim m)) ∧
      (r.deadline = s.regs.deadline ∨ s.nextEvent.command = some .arm ∨ s.nextEvent.command = some .poll) ∧
      (r.onMask = s.regs.onMask ∨ s.nextEvent.command = some .init ∨
        ∃ m, s.nextEvent.command ∈ [some (.wron m), some (.seton m), some (.clron m)]) ∧
      (r.dimMask = s.regs.dimMask ∨ s.nextEvent.command = some .init ∨
        ∃ m, s.nextEvent.command ∈ [some (.wrdim m), some (.setdim m), some (.clrdim m)]) ∧
      (r.blinkMask = s.regs.blinkMask ∨ s.nextEvent.command = some .init ∨
        ∃ m, s.nextEvent.command ∈ [some (.wrblink m), some (.setblink m), some (.clrblink m)]) ∧
      (r.cursor = s.regs.cursor ∨ s.nextEvent.command ∈ [some .init, some .step, some .poll]) ∧
      (r.frame = s.regs.frame ∨ s.nextEvent.command ∈ [some .init, some .step, some .poll]) ∧
      (r.out = s.regs.out ∨ s.nextEvent.command ∈ [some .init, some .step, some .poll, some .shutdown]) ∧
      (r.dir = s.regs.dir ∨ s.nextEvent.command ∈ [some .init, some .shutdown])

/-- Repeating a command other than `STEP` and `POLL` with nothing between changes nothing further: 20_memory.md R56 says it of the
reads, `INIT`, `SHUTDOWN`, `CONFIGURE` and the mask commands; for `CLRIF`, `WRIM` and `ARM` it follows from 40_tick_source.md R105, R107
and 42_deadline.md R142. -/
def Obligations.RepeatingACommandChangesNothing : Prop :=
  ∀ (i : Instr) (s t : State), i ≠ .step → i ≠ .poll → exec i s = .next t → exec i t = .next t

/-- 10_state.md R20 (column "read by"), R23, 60_exceptions.md R185, one step: two machines that differ only in the interrupt flags, the
interrupt mask and the divisor code (and the response of the step before), at the same events, both go on, agree again on every other register, and
give the same answer to every command word other than `RDIF` and `RDIM`. -/
def Obligations.StepKeepsInterruptsApart : Prop :=
  ∀ (cfg : Config) (r₁ r₂ : Regs cfg) (a₁ a₂ : Option Response) (inputs : List Event),
    r₁.AgreeOffInterrupts r₂ → r₁.cursor.toNat < cfg.ledCount →
    ∃ (r₁' r₂' : Regs cfg) (b₁ b₂ : Option Response),
      step ⟨cfg, r₁, a₁, inputs⟩ = .next ⟨cfg, r₁', b₁, inputs.tail⟩ ∧
      step ⟨cfg, r₂, a₂, inputs⟩ = .next ⟨cfg, r₂', b₂, inputs.tail⟩ ∧
      r₁'.AgreeOffInterrupts r₂' ∧ r₁'.cursor.toNat < cfg.ledCount ∧
      ∀ w, inputs.head? = some (.cmd w) → decode w ≠ .instr .rdif → decode w ≠ .instr .rdim → b₁ = b₂

/-- 10_state.md R20 (column "read by"), R23, 60_exceptions.md R185: the interrupt flags, the interrupt mask and the divisor code cannot
influence anything else: two machines that differ only in them, given the same events, run alike, agree on every other register after
any number of steps, and give the same response to every command word other than `RDIF` and `RDIM`. -/
def Obligations.InterruptsDoNotInfluenceTheBlock : Prop :=
  ∀ (cfg : Config) (r₁ r₂ : Regs cfg) (a₁ a₂ : Option Response) (inputs : List Event) (n : Nat),
    r₁.AgreeOffInterrupts r₂ → r₁.cursor.toNat < cfg.ledCount →
    ∃ (r₁' r₂' : Regs cfg) (b₁ b₂ : Option Response),
      runSteps n ⟨cfg, r₁, a₁, inputs⟩ = .next ⟨cfg, r₁', b₁, inputs.drop n⟩ ∧
      runSteps n ⟨cfg, r₂, a₂, inputs⟩ = .next ⟨cfg, r₂', b₂, inputs.drop n⟩ ∧
      r₁'.AgreeOffInterrupts r₂' ∧
      ∀ k w, n = k + 1 → inputs[k]? = some (.cmd w) → decode w ≠ .instr .rdif → decode w ≠ .instr .rdim → b₁ = b₂

/-- 10_state.md R20 (column "read by"), R65: nothing of the Tick Source and the Deadline Comparator reaches the Scan Engine except
through the comparison of `POLL`: for every other command, machines that agree on the Scan Engine's registers agree on them after. -/
def Obligations.ScanEngineDependsOnItsOwnRegistersOnly : Prop :=
  ∀ (cfg : Config) (r₁ r₂ : Regs cfg) (a₁ a₂ : Option Response) (q₁ q₂ : List Event) (i : Instr),
    i ≠ .poll → r₁.AgreeOnScan r₂ → r₁.cursor.toNat < cfg.ledCount →
    ∃ (r₁' r₂' : Regs cfg) (b₁ b₂ : Option Response),
      exec i ⟨cfg, r₁, a₁, q₁⟩ = .next ⟨cfg, r₁', b₁, q₁⟩ ∧ exec i ⟨cfg, r₂, a₂, q₂⟩ = .next ⟨cfg, r₂', b₂, q₂⟩ ∧
      r₁'.AgreeOnScan r₂'

/-- 70_reset_and_hazards.md R204: the boot order `CONFIGURE DIV0`, `INIT`, `ARM` brings every machine, whatever its registers held, to
one state but for the interrupt mask. -/
def Obligations.BootReachesTheStartState : Prop :=
  ∀ s : State, ∃ (lines : BitVec s.cfg.pinCount) (d : BitVec s.cfg.counterW),
    (∀ i, lines.getLsbD i = true ↔ ∃ e ∈ s.cfg.map, i = e.hi ∨ i = e.lo) ∧ d.toNat = s.cfg.period ∧
    runSteps 3 { s with
        inputs := .cmd (encode (.configure (BitVec.ofNat 3 s.cfg.div0))) :: .cmd (encode .init) :: .cmd (encode .arm) :: s.inputs } =
      .next { s with
        regs := { counter := 0, divsel := BitVec.ofNat 3 s.cfg.div0, iflag := 0, imask := s.regs.imask, deadline := d,
                  onMask := s.cfg.initOn, dimMask := s.cfg.initDim, blinkMask := s.cfg.initBlink, cursor := 0, frame := 0,
                  out := s.cfg.idle, dir := lines },
        response := some ⟨0, .ok⟩ }

/-- 70_reset_and_hazards.md R205(e): a `STEP` before `INIT` writes the idle pattern and advances, and nothing reaches the lines,
whatever the unspecified registers hold. -/
def Obligations.StepBeforeInitReachesNoLine : Prop :=
  ∀ (cfg : Config) (draw : ResetDraw) (inputs : List Event), ∃ r : Regs cfg,
    exec .step (State.afterReset cfg draw inputs) = .next ⟨cfg, r, some ⟨0, .ok⟩, inputs⟩ ∧
    r.out = cfg.idle ∧ r.cursor.toNat = 1 % cfg.ledCount ∧ ∀ i, r.line i = .z
end

