-- ==== Sys2Proof/Laws/Config.lean ====
section
/-! SUPPORT. The constraints of a configuration (00_scope.md R6, R7) by name, and what follows from them. -/

namespace Sys2Proof

section Config
variable (cfg : Config)

theorem Config.counterW_bounds : 2 ≤ cfg.counterW ∧ cfg.counterW ≤ 32 := cfg.ok.1

theorem Config.divisors_length_le : cfg.divisors.length ≤ 8 := cfg.ok.2.2.1.2

theorem Config.div0_lt : cfg.div0 < cfg.divisors.length := cfg.ok.2.2.2.2.1

theorem Config.period_bounds : 1 ≤ cfg.period ∧ cfg.period ≤ 2 ^ (cfg.counterW - 1) := cfg.ok.2.2.2.2.2.1

theorem Config.ledCount_bounds : 1 ≤ cfg.ledCount ∧ cfg.ledCount ≤ 32 := cfg.ok.2.2.2.2.2.2.1

theorem Config.portW_pos : 1 ≤ cfg.portW := cfg.ok.2.2.2.2.2.2.2.2.1

theorem Config.frameW_ge : 7 ≤ cfg.frameW := cfg.ok.2.2.2.2.2.2.2.2.2.2.1

theorem Config.ifW_bounds : 1 ≤ cfg.ifW ∧ cfg.ifW ≤ 32 := cfg.ok.2.2.2.2.2.2.2.2.2.2.2.1

theorem Config.map_length : cfg.map.length = cfg.ledCount := cfg.ok.2.2.2.2.2.2.2.2.2.2.2.2.1

theorem Config.entryOk {e : PinPair} (h : e ∈ cfg.map) : cfg.EntryOk e := cfg.ok.2.2.2.2.2.2.2.2.2.2.2.2.2 e h

/-- `ceilLog2 n` bits count `n` things. -/
theorem le_two_pow_ceilLog2 (n : Nat) : n ≤ 2 ^ ceilLog2 n := by
  unfold ceilLog2
  split
  · omega
  · have := Nat.lt_log2_self (n := n - 1)
    omega

/-- The cursor register holds every index of the table. -/
theorem Config.ledCount_le_two_pow_cursorW : cfg.ledCount ≤ 2 ^ cfg.cursorW := by
  have h := le_two_pow_ceilLog2 cfg.ledCount
  have : 2 ^ ceilLog2 cfg.ledCount ≤ 2 ^ cfg.cursorW := Nat.pow_le_pow_right (by omega) (Nat.le_max_right ..)
  omega

/-- `2^W` is twice the largest period. -/
theorem Config.two_pow_counterW : 2 ^ cfg.counterW = 2 * 2 ^ (cfg.counterW - 1) := by
  have := cfg.counterW_bounds
  rw [← Nat.pow_succ']
  congr 1
  omega

theorem Config.period_lt : cfg.period < 2 ^ cfg.counterW := by
  have := cfg.period_bounds; have := cfg.two_pow_counterW; have := Nat.two_pow_pos (cfg.counterW - 1); omega

/-- `2^FRAME_W` is a multiple of 128, and so of 8 (41_scan_engine.md R130, R131). -/
theorem Config.dvd_two_pow_frameW : 128 ∣ 2 ^ cfg.frameW :=
  Nat.pow_dvd_pow (m := 7) 2 cfg.frameW_ge

/-- A `MAP` read inside the table finds an entry of the table. -/
theorem Config.exists_map_entry {c : Nat} (h : c < cfg.ledCount) : ∃ e, cfg.map[c]? = some e ∧ e ∈ cfg.map := by
  have hl : c < cfg.map.length := by rw [cfg.map_length]; exact h
  exact ⟨cfg.map[c], List.getElem?_eq_getElem hl, List.getElem_mem hl⟩

theorem Config.lt_ledCount_of_map_entry {c : Nat} {e : PinPair} (h : cfg.map[c]? = some e) : c < cfg.ledCount := by
  rw [← cfg.map_length]; exact (List.getElem?_eq_some_iff.mp h).1

end Config

end Sys2Proof
end

