-- ==== Sys2Proof/Laws/Decode.lean ====
section
/-! SUPPORT. The fields of a command word and what the decoder accepts. -/

namespace Sys2Proof

@[simp] theorem opField_joinFields (op : OpCode) (arg : Word) : opField (joinFields op arg) = op := by
  unfold opField joinFields
  ext i hi
  rw [BitVec.getElem_extractLsb', BitVec.getLsbD_append]
  simp [BitVec.getLsbD_eq_getElem hi]

@[simp] theorem argField_joinFields (op : OpCode) (arg : Word) : argField (joinFields op arg) = arg := by
  unfold argField joinFields
  ext i hi
  rw [BitVec.getElem_extractLsb', BitVec.getLsbD_append]
  simp [hi]

/-- A word is the join of its two fields (30_encoding.md R70). -/
theorem joinFields_fields (w : CommandWord) : joinFields (opField w) (argField w) = w := by
  unfold opField argField joinFields
  ext i hi
  simp only [BitVec.getElem_append, BitVec.getElem_extractLsb']
  split
  · simp [BitVec.getLsbD_eq_getElem hi]
  · rw [show 32 + (i - 32) = i by omega, BitVec.getLsbD_eq_getElem hi]

/-- The two fields of a word determine it. -/
theorem joinFields_inj {op op' : OpCode} {arg arg' : Word} :
    joinFields op arg = joinFields op' arg' ↔ op = op' ∧ arg = arg' := by
  constructor
  · intro h
    have ho := congrArg opField h
    have ha := congrArg argField h
    simp only [opField_joinFields, argField_joinFields] at ho ha
    exact ⟨ho, ha⟩
  · rintro ⟨rfl, rfl⟩; rfl

/-- A mask acts on the two fields of a word apart. -/
theorem joinFields_and (op op' : OpCode) (arg arg' : Word) :
    joinFields op arg &&& joinFields op' arg' = joinFields (op &&& op') (arg &&& arg') := by
  unfold joinFields
  exact BitVec.and_append

@[simp] theorem decode_joinFields (op : OpCode) (arg : Word) : decode (joinFields op arg) = decodeFields op arg := by
  simp [decode]

theorem decodeZ_eq_instr {i j : Instr} {arg : Word} : decodeZ i arg = .instr j ↔ arg = 0 ∧ i = j := by
  unfold decodeZ; split <;> simp_all

theorem decodeM_eq_instr {mk : Word → Instr} {arg : Word} {j : Instr} : decodeM mk arg = .instr j ↔ mk arg = j := by
  simp [decodeM]

theorem decodeD_eq_instr {mk : DivSel → Instr} {arg : Word} {j : Instr} :
    decodeD mk arg = .instr j ↔ divselPad arg = 0 ∧ mk (divselOfArg arg) = j := by
  unfold decodeD; split <;> simp_all

/-- The must-be-zero bits are zero exactly when the word is its low three bits. -/
theorem divselPad_eq_zero_iff (arg : Word) : divselPad arg = 0 ↔ arg = (divselOfArg arg).setWidth 32 := by
  unfold divselPad divselOfArg
  constructor
  · intro h
    ext i hi
    simp only [BitVec.getElem_setWidth, BitVec.getLsbD_extractLsb']
    by_cases h3 : i < 3
    · simp [h3, BitVec.getLsbD_eq_getElem hi]
    · have := congrArg (fun v => v.getLsbD (i - 3)) h
      simp only [BitVec.getLsbD_extractLsb', show 3 + (i - 3) = i by omega, BitVec.ofNat_eq_ofNat, BitVec.getLsbD_zero] at this
      rw [show (decide (i - 3 < 29)) = true by simp; omega] at this
      simp [h3]
      simpa [BitVec.getLsbD_eq_getElem hi] using this
  · intro h
    rw [h]
    ext i hi
    simp

@[simp] theorem divselOfArg_setWidth (d : DivSel) : divselOfArg (d.setWidth 32) = d := by
  unfold divselOfArg
  ext i hi
  simp [hi]
  omega

@[simp] theorem divselPad_setWidth (d : DivSel) : divselPad (d.setWidth 32) = 0 := by
  rw [divselPad_eq_zero_iff, divselOfArg_setWidth]

end Sys2Proof
end

