-- ==== Sys2Proof/Laws/State.lean ====
section
/-! SUPPORT. What each update of the state leaves in each field; every one true by rfl. -/

namespace Sys2Proof.Machine

variable {cfg : Config}

section setCounter
variable (r : Regs cfg) (v : BitVec cfg.counterW)
@[simp] theorem Regs.setCounter_counter : (r.setCounter v).counter = v := rfl
@[simp] theorem Regs.setCounter_divsel : (r.setCounter v).divsel = r.divsel := rfl
@[simp] theorem Regs.setCounter_iflag : (r.setCounter v).iflag = r.iflag := rfl
@[simp] theorem Regs.setCounter_imask : (r.setCounter v).imask = r.imask := rfl
@[simp] theorem Regs.setCounter_deadline : (r.setCounter v).deadline = r.deadline := rfl
@[simp] theorem Regs.setCounter_onMask : (r.setCounter v).onMask = r.onMask := rfl
@[simp] theorem Regs.setCounter_dimMask : (r.setCounter v).dimMask = r.dimMask := rfl
@[simp] theorem Regs.setCounter_blinkMask : (r.setCounter v).blinkMask = r.blinkMask := rfl
@[simp] theorem Regs.setCounter_cursor : (r.setCounter v).cursor = r.cursor := rfl
@[simp] theorem Regs.setCounter_frame : (r.setCounter v).frame = r.frame := rfl
@[simp] theorem Regs.setCounter_out : (r.setCounter v).out = r.out := rfl
@[simp] theorem Regs.setCounter_dir : (r.setCounter v).dir = r.dir := rfl
end setCounter

section setDivsel
variable (r : Regs cfg) (v : DivSel)
@[simp] theorem Regs.setDivsel_counter : (r.setDivsel v).counter = r.counter := rfl
@[simp] theorem Regs.setDivsel_divsel : (r.setDivsel v).divsel = v := rfl
@[simp] theorem Regs.setDivsel_iflag : (r.setDivsel v).iflag = r.iflag := rfl
@[simp] theorem Regs.setDivsel_imask : (r.setDivsel v).imask = r.imask := rfl
@[simp] theorem Regs.setDivsel_deadline : (r.setDivsel v).deadline = r.deadline := rfl
@[simp] theorem Regs.setDivsel_onMask : (r.setDivsel v).onMask = r.onMask := rfl
@[simp] theorem Regs.setDivsel_dimMask : (r.setDivsel v).dimMask = r.dimMask := rfl
@[simp] theorem Regs.setDivsel_blinkMask : (r.setDivsel v).blinkMask = r.blinkMask := rfl
@[simp] theorem Regs.setDivsel_cursor : (r.setDivsel v).cursor = r.cursor := rfl
@[simp] theorem Regs.setDivsel_frame : (r.setDivsel v).frame = r.frame := rfl
@[simp] theorem Regs.setDivsel_out : (r.setDivsel v).out = r.out := rfl
@[simp] theorem Regs.setDivsel_dir : (r.setDivsel v).dir = r.dir := rfl
end setDivsel

section setIflag
variable (r : Regs cfg) (v : BitVec cfg.ifW)
@[simp] theorem Regs.setIflag_counter : (r.setIflag v).counter = r.counter := rfl
@[simp] theorem Regs.setIflag_divsel : (r.setIflag v).divsel = r.divsel := rfl
@[simp] theorem Regs.setIflag_iflag : (r.setIflag v).iflag = v := rfl
@[simp] theorem Regs.setIflag_imask : (r.setIflag v).imask = r.imask := rfl
@[simp] theorem Regs.setIflag_deadline : (r.setIflag v).deadline = r.deadline := rfl
@[simp] theorem Regs.setIflag_onMask : (r.setIflag v).onMask = r.onMask := rfl
@[simp] theorem Regs.setIflag_dimMask : (r.setIflag v).dimMask = r.dimMask := rfl
@[simp] theorem Regs.setIflag_blinkMask : (r.setIflag v).blinkMask = r.blinkMask := rfl
@[simp] theorem Regs.setIflag_cursor : (r.setIflag v).cursor = r.cursor := rfl
@[simp] theorem Regs.setIflag_frame : (r.setIflag v).frame = r.frame := rfl
@[simp] theorem Regs.setIflag_out : (r.setIflag v).out = r.out := rfl
@[simp] theorem Regs.setIflag_dir : (r.setIflag v).dir = r.dir := rfl
end setIflag

section setImask
variable (r : Regs cfg) (v : BitVec cfg.ifW)
@[simp] theorem Regs.setImask_counter : (r.setImask v).counter = r.counter := rfl
@[simp] theorem Regs.setImask_divsel : (r.setImask v).divsel = r.divsel := rfl
@[simp] theorem Regs.setImask_iflag : (r.setImask v).iflag = r.iflag := rfl
@[simp] theorem Regs.setImask_imask : (r.setImask v).imask = v := rfl
@[simp] theorem Regs.setImask_deadline : (r.setImask v).deadline = r.deadline := rfl
@[simp] theorem Regs.setImask_onMask : (r.setImask v).onMask = r.onMask := rfl
@[simp] theorem Regs.setImask_dimMask : (r.setImask v).dimMask = r.dimMask := rfl
@[simp] theorem Regs.setImask_blinkMask : (r.setImask v).blinkMask = r.blinkMask := rfl
@[simp] theorem Regs.setImask_cursor : (r.setImask v).cursor = r.cursor := rfl
@[simp] theorem Regs.setImask_frame : (r.setImask v).frame = r.frame := rfl
@[simp] theorem Regs.setImask_out : (r.setImask v).out = r.out := rfl
@[simp] theorem Regs.setImask_dir : (r.setImask v).dir = r.dir := rfl
end setImask

section setDeadline
variable (r : Regs cfg) (v : BitVec cfg.counterW)
@[simp] theorem Regs.setDeadline_counter : (r.setDeadline v).counter = r.counter := rfl
@[simp] theorem Regs.setDeadline_divsel : (r.setDeadline v).divsel = r.divsel := rfl
@[simp] theorem Regs.setDeadline_iflag : (r.setDeadline v).iflag = r.iflag := rfl
@[simp] theorem Regs.setDeadline_imask : (r.setDeadline v).imask = r.imask := rfl
@[simp] theorem Regs.setDeadline_deadline : (r.setDeadline v).deadline = v := rfl
@[simp] theorem Regs.setDeadline_onMask : (r.setDeadline v).onMask = r.onMask := rfl
@[simp] theorem Regs.setDeadline_dimMask : (r.setDeadline v).dimMask = r.dimMask := rfl
@[simp] theorem Regs.setDeadline_blinkMask : (r.setDeadline v).blinkMask = r.blinkMask := rfl
@[simp] theorem Regs.setDeadline_cursor : (r.setDeadline v).cursor = r.cursor := rfl
@[simp] theorem Regs.setDeadline_frame : (r.setDeadline v).frame = r.frame := rfl
@[simp] theorem Regs.setDeadline_out : (r.setDeadline v).out = r.out := rfl
@[simp] theorem Regs.setDeadline_dir : (r.setDeadline v).dir = r.dir := rfl
end setDeadline

section setOnMask
variable (r : Regs cfg) (v : Word)
@[simp] theorem Regs.setOnMask_counter : (r.setOnMask v).counter = r.counter := rfl
@[simp] theorem Regs.setOnMask_divsel : (r.setOnMask v).divsel = r.divsel := rfl
@[simp] theorem Regs.setOnMask_iflag : (r.setOnMask v).iflag = r.iflag := rfl
@[simp] theorem Regs.setOnMask_imask : (r.setOnMask v).imask = r.imask := rfl
@[simp] theorem Regs.setOnMask_deadline : (r.setOnMask v).deadline = r.deadline := rfl
@[simp] theorem Regs.setOnMask_onMask : (r.setOnMask v).onMask = v := rfl
@[simp] theorem Regs.setOnMask_dimMask : (r.setOnMask v).dimMask = r.dimMask := rfl
@[simp] theorem Regs.setOnMask_blinkMask : (r.setOnMask v).blinkMask = r.blinkMask := rfl
@[simp] theorem Regs.setOnMask_cursor : (r.setOnMask v).cursor = r.cursor := rfl
@[simp] theorem Regs.setOnMask_frame : (r.setOnMask v).frame = r.frame := rfl
@[simp] theorem Regs.setOnMask_out : (r.setOnMask v).out = r.out := rfl
@[simp] theorem Regs.setOnMask_dir : (r.setOnMask v).dir = r.dir := rfl
end setOnMask

section setDimMask
variable (r : Regs cfg) (v : Word)
@[simp] theorem Regs.setDimMask_counter : (r.setDimMask v).counter = r.counter := rfl
@[simp] theorem Regs.setDimMask_divsel : (r.setDimMask v).divsel = r.divsel := rfl
@[simp] theorem Regs.setDimMask_iflag : (r.setDimMask v).iflag = r.iflag := rfl
@[simp] theorem Regs.setDimMask_imask : (r.setDimMask v).imask = r.imask := rfl
@[simp] theorem Regs.setDimMask_deadline : (r.setDimMask v).deadline = r.deadline := rfl
@[simp] theorem Regs.setDimMask_onMask : (r.setDimMask v).onMask = r.onMask := rfl
@[simp] theorem Regs.setDimMask_dimMask : (r.setDimMask v).dimMask = v := rfl
@[simp] theorem Regs.setDimMask_blinkMask : (r.setDimMask v).blinkMask = r.blinkMask := rfl
@[simp] theorem Regs.setDimMask_cursor : (r.setDimMask v).cursor = r.cursor := rfl
@[simp] theorem Regs.setDimMask_frame : (r.setDimMask v).frame = r.frame := rfl
@[simp] theorem Regs.setDimMask_out : (r.setDimMask v).out = r.out := rfl
@[simp] theorem Regs.setDimMask_dir : (r.setDimMask v).dir = r.dir := rfl
end setDimMask

section setBlinkMask
variable (r : Regs cfg) (v : Word)
@[simp] theorem Regs.setBlinkMask_counter : (r.setBlinkMask v).counter = r.counter := rfl
@[simp] theorem Regs.setBlinkMask_divsel : (r.setBlinkMask v).divsel = r.divsel := rfl
@[simp] theorem Regs.setBlinkMask_iflag : (r.setBlinkMask v).iflag = r.iflag := rfl
@[simp] theorem Regs.setBlinkMask_imask : (r.setBlinkMask v).imask = r.imask := rfl
@[simp] theorem Regs.setBlinkMask_deadline : (r.setBlinkMask v).deadline = r.deadline := rfl
@[simp] theorem Regs.setBlinkMask_onMask : (r.setBlinkMask v).onMask = r.onMask := rfl
@[simp] theorem Regs.setBlinkMask_dimMask : (r.setBlinkMask v).dimMask = r.dimMask := rfl
@[simp] theorem Regs.setBlinkMask_blinkMask : (r.setBlinkMask v).blinkMask = v := rfl
@[simp] theorem Regs.setBlinkMask_cursor : (r.setBlinkMask v).cursor = r.cursor := rfl
@[simp] theorem Regs.setBlinkMask_frame : (r.setBlinkMask v).frame = r.frame := rfl
@[simp] theorem Regs.setBlinkMask_out : (r.setBlinkMask v).out = r.out := rfl
@[simp] theorem Regs.setBlinkMask_dir : (r.setBlinkMask v).dir = r.dir := rfl
end setBlinkMask

section setCursor
variable (r : Regs cfg) (v : BitVec cfg.cursorW)
@[simp] theorem Regs.setCursor_counter : (r.setCursor v).counter = r.counter := rfl
@[simp] theorem Regs.setCursor_divsel : (r.setCursor v).divsel = r.divsel := rfl
@[simp] theorem Regs.setCursor_iflag : (r.setCursor v).iflag = r.iflag := rfl
@[simp] theorem Regs.setCursor_imask : (r.setCursor v).imask = r.imask := rfl
@[simp] theorem Regs.setCursor_deadline : (r.setCursor v).deadline = r.deadline := rfl
@[simp] theorem Regs.setCursor_onMask : (r.setCursor v).onMask = r.onMask := rfl
@[simp] theorem Regs.setCursor_dimMask : (r.setCursor v).dimMask = r.dimMask := rfl
@[simp] theorem Regs.setCursor_blinkMask : (r.setCursor v).blinkMask = r.blinkMask := rfl
@[simp] theorem Regs.setCursor_cursor : (r.setCursor v).cursor = v := rfl
@[simp] theorem Regs.setCursor_frame : (r.setCursor v).frame = r.frame := rfl
@[simp] theorem Regs.setCursor_out : (r.setCursor v).out = r.out := rfl
@[simp] theorem Regs.setCursor_dir : (r.setCursor v).dir = r.dir := rfl
end setCursor

section setFrame
variable (r : Regs cfg) (v : BitVec cfg.frameW)
@[simp] theorem Regs.setFrame_counter : (r.setFrame v).counter = r.counter := rfl
@[simp] theorem Regs.setFrame_divsel : (r.setFrame v).divsel = r.divsel := rfl
@[simp] theorem Regs.setFrame_iflag : (r.setFrame v).iflag = r.iflag := rfl
@[simp] theorem Regs.setFrame_imask : (r.setFrame v).imask = r.imask := rfl
@[simp] theorem Regs.setFrame_deadline : (r.setFrame v).deadline = r.deadline := rfl
@[simp] theorem Regs.setFrame_onMask : (r.setFrame v).onMask = r.onMask := rfl
@[simp] theorem Regs.setFrame_dimMask : (r.setFrame v).dimMask = r.dimMask := rfl
@[simp] theorem Regs.setFrame_blinkMask : (r.setFrame v).blinkMask = r.blinkMask := rfl
@[simp] theorem Regs.setFrame_cursor : (r.setFrame v).cursor = r.cursor := rfl
@[simp] theorem Regs.setFrame_frame : (r.setFrame v).frame = v := rfl
@[simp] theorem Regs.setFrame_out : (r.setFrame v).out = r.out := rfl
@[simp] theorem Regs.setFrame_dir : (r.setFrame v).dir = r.dir := rfl
end setFrame

section setOut
variable (r : Regs cfg) (v : BitVec cfg.pinCount)
@[simp] theorem Regs.setOut_counter : (r.setOut v).counter = r.counter := rfl
@[simp] theorem Regs.setOut_divsel : (r.setOut v).divsel = r.divsel := rfl
@[simp] theorem Regs.setOut_iflag : (r.setOut v).iflag = r.iflag := rfl
@[simp] theorem Regs.setOut_imask : (r.setOut v).imask = r.imask := rfl
@[simp] theorem Regs.setOut_deadline : (r.setOut v).deadline = r.deadline := rfl
@[simp] theorem Regs.setOut_onMask : (r.setOut v).onMask = r.onMask := rfl
@[simp] theorem Regs.setOut_dimMask : (r.setOut v).dimMask = r.dimMask := rfl
@[simp] theorem Regs.setOut_blinkMask : (r.setOut v).blinkMask = r.blinkMask := rfl
@[simp] theorem Regs.setOut_cursor : (r.setOut v).cursor = r.cursor := rfl
@[simp] theorem Regs.setOut_frame : (r.setOut v).frame = r.frame := rfl
@[simp] theorem Regs.setOut_out : (r.setOut v).out = v := rfl
@[simp] theorem Regs.setOut_dir : (r.setOut v).dir = r.dir := rfl
end setOut

section setDir
variable (r : Regs cfg) (v : BitVec cfg.pinCount)
@[simp] theorem Regs.setDir_counter : (r.setDir v).counter = r.counter := rfl
@[simp] theorem Regs.setDir_divsel : (r.setDir v).divsel = r.divsel := rfl
@[simp] theorem Regs.setDir_iflag : (r.setDir v).iflag = r.iflag := rfl
@[simp] theorem Regs.setDir_imask : (r.setDir v).imask = r.imask := rfl
@[simp] theorem Regs.setDir_deadline : (r.setDir v).deadline = r.deadline := rfl
@[simp] theorem Regs.setDir_onMask : (r.setDir v).onMask = r.onMask := rfl
@[simp] theorem Regs.setDir_dimMask : (r.setDir v).dimMask = r.dimMask := rfl
@[simp] theorem Regs.setDir_blinkMask : (r.setDir v).blinkMask = r.blinkMask := rfl
@[simp] theorem Regs.setDir_cursor : (r.setDir v).cursor = r.cursor := rfl
@[simp] theorem Regs.setDir_frame : (r.setDir v).frame = r.frame := rfl
@[simp] theorem Regs.setDir_out : (r.setDir v).out = r.out := rfl
@[simp] theorem Regs.setDir_dir : (r.setDir v).dir = v := rfl
end setDir

section AfterReset
variable (draw : ResetDraw)
@[simp] theorem Regs.afterReset_imask : (Regs.afterReset cfg draw).imask = 0 := rfl
@[simp] theorem Regs.afterReset_onMask : (Regs.afterReset cfg draw).onMask = 0 := rfl
@[simp] theorem Regs.afterReset_dimMask : (Regs.afterReset cfg draw).dimMask = 0 := rfl
@[simp] theorem Regs.afterReset_blinkMask : (Regs.afterReset cfg draw).blinkMask = 0 := rfl
@[simp] theorem Regs.afterReset_cursor : (Regs.afterReset cfg draw).cursor = 0 := rfl
@[simp] theorem Regs.afterReset_frame : (Regs.afterReset cfg draw).frame = 0 := rfl
@[simp] theorem Regs.afterReset_out : (Regs.afterReset cfg draw).out = 0 := rfl
@[simp] theorem Regs.afterReset_dir : (Regs.afterReset cfg draw).dir = 0 := rfl
end AfterReset

end Sys2Proof.Machine
end

