-- ==== Sys2Proof/Laws/Ops.lean ====
section
/-! SUPPORT. One lemma for each shared operation, saying once what it does. -/

namespace Sys2Proof.Machine

variable {cfg : Config}

/-! ### Operands and flags -/

theorem getLsbD_flagBits (m : Word) {k : Nat} (h : k < cfg.ifW) : (flagBits cfg m).getLsbD k = m.getLsbD k := by
  simp [flagBits, h]

theorem getLsbD_flagsSet (f : BitVec cfg.ifW) (m : Word) {k : Nat} (h : k < cfg.ifW) :
    (flagsSet f m).getLsbD k = (f.getLsbD k || m.getLsbD k) := by
  simp [flagsSet, getLsbD_flagBits m h]

theorem getLsbD_flagsCleared (f : BitVec cfg.ifW) (m : Word) {k : Nat} (h : k < cfg.ifW) :
    (flagsCleared f m).getLsbD k = (f.getLsbD k && !m.getLsbD k) := by
  unfold flagsCleared
  rw [BitVec.getLsbD_and, BitVec.getLsbD_not, getLsbD_flagBits m h]
  simp [h]

/-- A register of at most 32 bits is answered unchanged. -/
theorem toNat_zext32 {n : Nat} (v : BitVec n) (h : n ≤ 32) : (zext32 v).toNat = v.toNat := by
  unfold zext32
  rw [BitVec.toNat_setWidth, Nat.mod_eq_of_lt]
  exact Nat.lt_of_lt_of_le v.isLt (Nat.pow_le_pow_right (by omega) h)

/-- `irq` is 1 exactly when some enabled flag is pending. -/
theorem irq_eq_true_iff (r : Regs cfg) :
    r.irq = true ↔ ∃ k < cfg.ifW, r.iflag.getLsbD k = true ∧ r.imask.getLsbD k = true := by
  unfold Regs.irq
  rw [bne_iff_ne, Ne, BitVec.eq_of_getLsbD_eq_iff]
  simp only [BitVec.getLsbD_and, BitVec.ofNat_eq_ofNat, BitVec.getLsbD_zero, Bool.and_eq_false_iff, not_forall,
    not_or, Bool.not_eq_false, exists_prop]

/-! ### Pins, patterns, ports -/

theorem getLsbD_pinBit {k i : Nat} (h : k < cfg.pinCount) : (pinBit cfg k).getLsbD i = decide (i = k) := by
  unfold pinBit
  rw [BitVec.getLsbD_twoPow]
  by_cases hik : i = k
  · subst hik; simp [h]
  · simp [hik, Ne.symm hik]

/-- The pattern of a lit LED has the two bits of its entry flipped and every other bit as in `IDLE`. -/
theorem getLsbD_pattern {e : PinPair} (he : e ∈ cfg.map) (isLit : Bool) (i : Nat) :
    (pattern cfg isLit e).getLsbD i =
      if isLit = true ∧ (i = e.hi ∨ i = e.lo) then !cfg.idle.getLsbD i else cfg.idle.getLsbD i := by
  obtain ⟨hne, hhi, hlo, -, -⟩ := cfg.entryOk he
  unfold pattern
  cases isLit
  · simp
  · simp only [if_true, BitVec.getLsbD_xor, getLsbD_pinBit hhi, getLsbD_pinBit hlo, true_and]
    by_cases h1 : i = e.hi
    · have : i ≠ e.lo := fun h => hne (h1 ▸ h)
      simp [h1, hne]
    · by_cases h2 : i = e.lo
      · simp [h2, Ne.symm hne]
      · simp [h1, h2]

/-- The matrix lines are exactly the pins that occur in `MAP` (41_scan_engine.md R120). -/
theorem getLsbD_matrixLines (i : Nat) :
    (matrixLines cfg).getLsbD i = true ↔ ∃ e ∈ cfg.map, i = e.hi ∨ i = e.lo := by
  have key : ∀ l : List PinPair, (∀ e ∈ l, cfg.EntryOk e) →
      ((l.foldr (fun e acc => pairBits cfg e ||| acc) (0 : BitVec cfg.pinCount)).getLsbD i = true ↔
        ∃ e ∈ l, i = e.hi ∨ i = e.lo) := by
    intro l
    induction l with
    | nil => simp
    | cons e l ih =>
      intro h
      obtain ⟨-, hhi, hlo, -, -⟩ := h e (by simp)
      have ih' := ih fun e' he' => h e' (by simp [he'])
      rw [List.foldr_cons, BitVec.getLsbD_or, Bool.or_eq_true, ih']
      simp [pairBits, getLsbD_pinBit hhi, getLsbD_pinBit hlo]
  exact key cfg.map fun e he => cfg.entryOk he

/-- A bit of a port is the bit of the pattern at the same place (20_memory.md R52). -/
theorem getLsbD_portSlice (pat : BitVec cfg.pinCount) (p j : Nat) (h : j < cfg.portW) :
    (portSlice cfg pat p).getLsbD j = pat.getLsbD (cfg.portW * p + j) := by
  simp [portSlice, h]

/-! ### The scan step -/

/-- The decision, clause by clause (41_scan_engine.md R122). -/
theorem lit_eq_true_iff (on dim blink : Word) (c f : Nat) :
    lit on dim blink c f = true ↔
      on.getLsbD c = true ∧ ¬(f % 8 ≠ 0 ∧ dim.getLsbD c = true) ∧ ¬(f / 64 % 2 = 0 ∧ blink.getLsbD c = true) := by
  have : f >>> 6 = f / 64 := by rw [Nat.shiftRight_eq_div_pow]
  simp only [lit, dimSuppressed, blinkSuppressed, maskBit, this, Bool.and_eq_true, Bool.not_eq_true',
    ← Bool.not_eq_true, bne_iff_ne, beq_iff_eq]
  tauto

/-- The decision reads one bit of each mask. -/
theorem lit_congr {on dim blink on' dim' blink' : Word} {c : Nat} (f : Nat) (ho : on.getLsbD c = on'.getLsbD c)
    (hd : dim.getLsbD c = dim'.getLsbD c) (hb : blink.getLsbD c = blink'.getLsbD c) :
    lit on dim blink c f = lit on' dim' blink' c f := by
  simp only [lit, dimSuppressed, blinkSuppressed, maskBit, ho, hd, hb]

theorem toNat_nextCursor (c : BitVec cfg.cursorW) : (nextCursor cfg c).toNat = (c.toNat + 1) % cfg.ledCount := by
  unfold nextCursor
  rw [BitVec.toNat_ofNat, Nat.mod_eq_of_lt]
  have := Nat.mod_lt (c.toNat + 1) cfg.ledCount_bounds.1
  have := cfg.ledCount_le_two_pow_cursorW
  omega

theorem toNat_nextFrame (c' : BitVec cfg.cursorW) (f : BitVec cfg.frameW) :
    (nextFrame c' f).toNat = if c'.toNat = 0 then (f.toNat + 1) % 2 ^ cfg.frameW else f.toNat := by
  unfold nextFrame
  have h : c' = 0 ↔ c'.toNat = 0 := by
    rw [← BitVec.toNat_inj]; simp
  have h7 : 1 < 2 ^ cfg.frameW := Nat.one_lt_two_pow (by have := cfg.frameW_ge; omega)
  by_cases hc : c'.toNat = 0
  · rw [if_pos (h.mpr hc), if_pos hc, BitVec.toNat_add]
    simp [Nat.mod_eq_of_lt h7]
  · rw [if_neg (fun h' => hc (h.mp h')), if_neg hc]

theorem advanceRegs_eq (r : Regs cfg) :
    advanceRegs r =
      { r with cursor := nextCursor cfg r.cursor, frame := nextFrame (nextCursor cfg r.cursor) r.frame } := rfl

/-- Everything a scan step can do: it needs the entry at the cursor, and writes `out`, `cursor` and `frame`. -/
theorem scanStep_eq_some_iff {r r' : Regs cfg} :
    scanStep r = some r' ↔
      ∃ e, cfg.map[r.cursor.toNat]? = some e ∧
        r' = { r with
          out := pattern cfg (litNow r) e
          cursor := nextCursor cfg r.cursor
          frame := nextFrame (nextCursor cfg r.cursor) r.frame } := by
  unfold scanStep readMap
  cases h : cfg.map[r.cursor.toNat]? with
  | none => simp
  | some e =>
    simp only [Option.some.injEq, exists_eq_left']
    exact eq_comm

/-- A performed `STEP` moves the pair (cursor, frame) one place on: the frame counts the wraps of the cursor (41_scan_engine.md
R126, 10_state.md R39). -/
theorem scanStep_position {r r' : Regs cfg} (h : scanStep r = some r') :
    r'.cursor.toNat = (r.cursor.toNat + 1) % cfg.ledCount ∧
    r'.frame.toNat = (r.frame.toNat + (r.cursor.toNat + 1) / cfg.ledCount) % 2 ^ cfg.frameW := by
  obtain ⟨e, he, rfl⟩ := scanStep_eq_some_iff.mp h
  have hc := cfg.lt_ledCount_of_map_entry he
  have hL := cfg.ledCount_bounds.1
  refine ⟨toNat_nextCursor _, ?_⟩
  dsimp only
  rw [toNat_nextFrame, toNat_nextCursor]
  by_cases hw : r.cursor.toNat + 1 = cfg.ledCount
  · rw [hw, Nat.mod_self, if_pos rfl, Nat.div_self hL]
  · have hlt : r.cursor.toNat + 1 < cfg.ledCount := by omega
    rw [Nat.mod_eq_of_lt hlt, Nat.div_eq_of_lt hlt]
    simp [Nat.mod_eq_of_lt r.frame.isLt]

/-- With the entry at the cursor given, what a scan step leaves. -/
theorem scanStep_of_entry {r : Regs cfg} {e : PinPair} (h : cfg.map[r.cursor.toNat]? = some e) :
    scanStep r = some { r with
      out := pattern cfg (litNow r) e
      cursor := nextCursor cfg r.cursor
      frame := nextFrame (nextCursor cfg r.cursor) r.frame } :=
  scanStep_eq_some_iff.mpr ⟨e, h, rfl⟩

/-- With the cursor in range a scan step has a result (41_scan_engine.md R125). -/
theorem exists_scanStep {r : Regs cfg} (h : r.cursor.toNat < cfg.ledCount) : ∃ r', scanStep r = some r' := by
  obtain ⟨e, he, -⟩ := cfg.exists_map_entry h
  exact ⟨_, scanStep_of_entry he⟩

/-! ### The comparison -/

theorem periodTicks_toNat : (periodTicks cfg).toNat = cfg.period := by
  unfold periodTicks
  rw [BitVec.toNat_ofNat, Nat.mod_eq_of_lt cfg.period_lt]

/-- Reached means that the reduced difference is below half the range (42_deadline.md R140). -/
theorem reached_iff {n : Nat} (now deadline : BitVec n) :
    reached now deadline = true ↔ (sdiffW now deadline).toNat < 2 ^ (n - 1) := by
  unfold reached
  rw [Bool.not_eq_true', BitVec.msb_eq_decide, decide_eq_false_iff_not, Nat.not_le]

theorem sdiffW_toNat {n : Nat} (a b : BitVec n) : (sdiffW a b).toNat = (a.toNat + (2 ^ n - b.toNat)) % 2 ^ n := by
  unfold sdiffW
  rw [BitVec.toNat_sub, Nat.add_comm]

theorem armRegs_deadline_toNat (r : Regs cfg) :
    (armRegs r).deadline.toNat = (r.counter.toNat + cfg.period) % 2 ^ cfg.counterW := by
  simp [armRegs, BitVec.toNat_add, periodTicks_toNat]

theorem rearmRegs_deadline_toNat (r : Regs cfg) :
    (rearmRegs r).deadline.toNat = (r.deadline.toNat + cfg.period) % 2 ^ cfg.counterW := by
  simp [rearmRegs, BitVec.toNat_add, periodTicks_toNat]

theorem tickRegs_counter_toNat (r : Regs cfg) :
    (tickRegs r).counter.toNat = (r.counter.toNat + 1) % 2 ^ cfg.counterW := by
  have h : 1 < 2 ^ cfg.counterW := Nat.one_lt_two_pow (by have := cfg.counterW_bounds; omega)
  simp [tickRegs, BitVec.toNat_add, Nat.mod_eq_of_lt h]

end Sys2Proof.Machine
end

