-- ==== Sys2Proof/Laws/PerInstr.lean ====
section
/-! SUPPORT. Statements made of every command as syntax, one lemma per constructor. -/

namespace Sys2Proof.Laws

/-- The bits of a command word that its format fixes (30_encoding.md R74, column `mask`). -/
def TableRow.mask : Format → CommandWord
  | .z => 0xFFFFFFFFFF
  | .d => 0xFFFFFFFFF8
  | .m => 0xFF00000000

/-- The encoding of a command matches its own row of the opcode table: the fixed bits are `{op, 0}` (30_encoding.md R74). -/
def TableRow.Statement (i : Instr) : Prop := encode i &&& TableRow.mask i.format = joinFields i.opCode 0

/-- With every bit of `op` fixed and none of `arg`, the mask keeps `op`. -/
theorem TableRow.joinFields_and_m (op : OpCode) (arg : Word) :
    joinFields op arg &&& TableRow.mask .m = joinFields op 0 := by
  rw [show TableRow.mask .m = joinFields 0xFF 0 from by decide, joinFields_and]
  congr 1
  · exact BitVec.and_allOnes
  · exact BitVec.and_zero

/-- The mask of format `D` leaves only the code free. -/
theorem TableRow.joinFields_and_d (op : OpCode) (d : DivSel) :
    joinFields op (d.setWidth 32) &&& TableRow.mask .d = joinFields op 0 := by
  rw [show TableRow.mask .d = joinFields 0xFF 0xFFFFFFF8 from by decide, joinFields_and]
  congr 1
  · exact BitVec.and_allOnes
  · revert d; decide

theorem TableRow.configure (d : DivSel) : Statement (.configure d) := joinFields_and_d _ _

theorem TableRow.value : Statement .value := by
  unfold TableRow.Statement
  decide

theorem TableRow.rdif : Statement .rdif := by
  unfold TableRow.Statement
  decide

theorem TableRow.clrif (m : Word) : Statement (.clrif m) := joinFields_and_m _ _

theorem TableRow.rdim : Statement .rdim := by
  unfold TableRow.Statement
  decide

theorem TableRow.wrim (m : Word) : Statement (.wrim m) := joinFields_and_m _ _

theorem TableRow.init : Statement .init := by
  unfold TableRow.Statement
  decide

theorem TableRow.step : Statement .step := by
  unfold TableRow.Statement
  decide

theorem TableRow.shutdown : Statement .shutdown := by
  unfold TableRow.Statement
  decide

theorem TableRow.arm : Statement .arm := by
  unfold TableRow.Statement
  decide

theorem TableRow.poll : Statement .poll := by
  unfold TableRow.Statement
  decide

theorem TableRow.wron (m : Word) : Statement (.wron m) := joinFields_and_m _ _

theorem TableRow.wrdim (m : Word) : Statement (.wrdim m) := joinFields_and_m _ _

theorem TableRow.wrblink (m : Word) : Statement (.wrblink m) := joinFields_and_m _ _

theorem TableRow.seton (m : Word) : Statement (.seton m) := joinFields_and_m _ _

theorem TableRow.setdim (m : Word) : Statement (.setdim m) := joinFields_and_m _ _

theorem TableRow.setblink (m : Word) : Statement (.setblink m) := joinFields_and_m _ _

theorem TableRow.clron (m : Word) : Statement (.clron m) := joinFields_and_m _ _

theorem TableRow.clrdim (m : Word) : Statement (.clrdim m) := joinFields_and_m _ _

theorem TableRow.clrblink (m : Word) : Statement (.clrblink m) := joinFields_and_m _ _

end Sys2Proof.Laws
end

