-- ==== Sys2Proof/Laws/Step.lean ====
section
/-! SUPPORT. What a command and a step can do, once; runs over a list of events. -/

namespace Sys2Proof.Machine

/-! ### Commands -/

theorem exec_configure_of_legal {d : DivSel} {s : State} (h : s.cfg.DivselLegal d) :
    exec (.configure d) s = .next (reply s (configureRegs s.regs d) 0) := by
  simp only [exec, execConfigure, if_pos h]

theorem exec_configure_of_reserved {d : DivSel} {s : State} (h : ¬s.cfg.DivselLegal d) :
    exec (.configure d) s = .next (raise s .reservedDivisor) := by
  simp only [exec, execConfigure, if_neg h]

theorem exec_step_of_scanStep {s : State} {r : Regs s.cfg} (h : scanStep s.regs = some r) :
    exec .step s = .next (reply s r 0) := by
  simp only [exec, execStep, h]

theorem exec_poll_of_reached {s : State} {r : Regs s.cfg} (hr : reached s.regs.counter s.regs.deadline = true)
    (h : scanStep s.regs = some r) : exec .poll s = .next (reply s (rearmRegs r) 1) := by
  simp only [exec, execPoll, if_pos hr, h]

theorem exec_poll_of_not_reached {s : State} (hr : ¬reached s.regs.counter s.regs.deadline = true) :
    exec .poll s = .next (reply s s.regs 0) := by
  simp only [exec, execPoll, if_neg hr]

/-- Everything a command can leave: other registers and a response; configuration and coming events as they were. -/
theorem exec_next_shape {i : Instr} {s t : State} (h : exec i s = .next t) :
    ∃ (r : Regs s.cfg) (a : Response), t = { s with regs := r, response := some a } := by
  have key : ∀ (r : Regs s.cfg) (v : Word), (Host.Outcome.next (reply s r v) : Result) = .next t →
      ∃ (r : Regs s.cfg) (a : Response), t = { s with regs := r, response := some a } := fun r v h => by
    cases h; exact ⟨r, ⟨v, .ok⟩, rfl⟩
  cases i with
  | configure d =>
    simp only [exec, execConfigure] at h
    split at h
    · exact key _ _ h
    · cases h; exact ⟨s.regs, _, rfl⟩
  | step =>
    simp only [exec, execStep] at h
    split at h
    · exact key _ _ h
    · cases h
  | poll =>
    simp only [exec, execPoll] at h
    split at h
    · split at h
      · exact key _ _ h
      · cases h
    · exact key _ _ h
  | _ => exact key _ _ h

/-- With the cursor in range every command completes (41_scan_engine.md R125). -/
theorem exec_completes (i : Instr) {s : State} (h : s.CursorInRange) : ∃ t, exec i s = .next t := by
  obtain ⟨r, hr⟩ := exists_scanStep h
  cases i with
  | configure d => simp only [exec, execConfigure]; split <;> exact ⟨_, rfl⟩
  | step => exact ⟨_, by simp only [exec, execStep, hr]; rfl⟩
  | poll => simp only [exec, execPoll, hr]; split <;> exact ⟨_, rfl⟩
  | _ => exact ⟨_, rfl⟩

/-! ### Steps -/

theorem step_push (s : State) (e : Event) : step (s.push e) = runEvent e s := rfl

theorem step_of_inputs {s : State} {e : Event} {rest : List Event} (h : s.inputs = e :: rest) :
    step s = runEvent e { s with inputs := rest } := by
  obtain ⟨cfg, regs, response, inputs⟩ := s
  subst h
  rfl

theorem step_of_no_inputs {s : State} (h : s.inputs = []) : step s = .next (silent s (tickRegs s.regs)) := by
  obtain ⟨cfg, regs, response, inputs⟩ := s
  subst h
  rfl

/-- A step is one event of an agent: the first of the coming ones, or a tick. -/
theorem step_cases (s : State) :
    (s.inputs = [] ∧ s.nextEvent = .tick ∧ step s = runEvent .tick s) ∨
    ∃ e rest, s.inputs = e :: rest ∧ s.nextEvent = e ∧ step s = runEvent e { s with inputs := rest } := by
  obtain ⟨cfg, regs, response, inputs⟩ := s
  cases inputs with
  | nil => exact .inl ⟨rfl, rfl, rfl⟩
  | cons e rest => exact .inr ⟨e, rest, rfl, rfl, rfl⟩

theorem runEvent_cmd_of_instr {w : CommandWord} {i : Instr} (h : decode w = .instr i) (s : State) :
    runEvent (.cmd w) s = exec i s := by
  simp only [runEvent, runCommand, h]

theorem runEvent_cmd_of_rejected {w : CommandWord} {r : Reject} (h : decode w = .rejected r) (s : State) :
    runEvent (.cmd w) s = .next (raise s .illegalCommand) := by
  simp only [runEvent, runCommand, h]

/-- With the cursor in range every event completes, and takes nothing from the coming events. -/
theorem runEvent_completes (e : Event) {s : State} (h : s.CursorInRange) : ∃ t, runEvent e s = .next t := by
  cases e with
  | cmd w =>
    cases hd : decode w with
    | instr i => rw [runEvent_cmd_of_instr hd]; exact exec_completes i h
    | rejected r => exact ⟨_, runEvent_cmd_of_rejected hd s⟩
  | _ => exact ⟨_, rfl⟩

/-- Everything an event can leave: other registers and another response. -/
theorem runEvent_next_shape {e : Event} {s t : State} (h : runEvent e s = .next t) :
    ∃ (r : Regs s.cfg) (a : Option Response), t = { s with regs := r, response := a } := by
  cases e with
  | cmd w =>
    cases hd : decode w with
    | instr i =>
      rw [runEvent_cmd_of_instr hd] at h
      obtain ⟨r, a, rfl⟩ := exec_next_shape h
      exact ⟨r, _, rfl⟩
    | rejected r =>
      rw [runEvent_cmd_of_rejected hd] at h
      cases h; exact ⟨s.regs, _, rfl⟩
  | rst draw => cases h; exact ⟨_, _, rfl⟩
  | tick => cases h; exact ⟨_, _, rfl⟩
  | flag m => cases h; exact ⟨_, _, rfl⟩

/-! ### Runs -/

theorem runSteps_zero (s : State) : runSteps 0 s = .next s := rfl

theorem runSteps_succ_of_next {n : Nat} {s t : State} (h : step s = .next t) : runSteps (n + 1) s = runSteps n t := by
  simp only [runSteps, Host.Core.run, show Sys2Proof.core.step s = .next t from h]
  rfl

/-- A run of one event and then the rest. -/
theorem runSteps_event {n : Nat} {s t : State} {e : Event} {rest : List Event}
    (h : runEvent e { s with inputs := rest } = .next t) :
    runSteps (n + 1) { s with inputs := e :: rest } = runSteps n t :=
  runSteps_succ_of_next h

/-- A run of one command word and then the rest. -/
theorem runSteps_cmd {n : Nat} {s t : State} {w : CommandWord} {i : Instr} {rest : List Event} (hd : decode w = .instr i)
    (h : exec i { s with inputs := rest } = .next t) :
    runSteps (n + 1) { s with inputs := .cmd w :: rest } = runSteps n t :=
  runSteps_event ((runEvent_cmd_of_instr hd _).trans h)

/-- A run of `m + n` steps is a run of `n` steps after one of `m`. -/
theorem runSteps_add {m n : Nat} {s t : State} (h : runSteps m s = .next t) : runSteps (m + n) s = runSteps n t := by
  induction m generalizing s with
  | zero => cases h; rw [Nat.zero_add]
  | succ m ih =>
    cases hs : step s with
    | next u =>
      rw [runSteps_succ_of_next hs] at h
      rw [show m + 1 + n = (m + n) + 1 by omega, runSteps_succ_of_next hs]
      exact ih h
    | fault r =>
      simp only [runSteps, Host.Core.run, show Sys2Proof.core.step s = .fault r from hs] at h
      cases h
    | refused r =>
      simp only [runSteps, Host.Core.run, show Sys2Proof.core.step s = .refused r from hs] at h
      cases h

/-! ### Counts along a run -/

/-- The count of performed `STEP`s, one step at a time. -/
theorem stepsTaken_succ_of_next {n : Nat} {s t : State} (h : step s = .next t) :
    stepsTaken (n + 1) s = (if s.takesStep then 1 else 0) + stepsTaken n t := by
  simp only [stepsTaken, h]

/-- The infinite run, one event at a time. -/
theorem Schedule.run_succ_of_next {σ : Schedule} {n : Nat} {s t : State} (h : σ.run s n = .next t) :
    σ.run s (n + 1) = runEvent (σ n) t := by
  simp only [Schedule.run, h]
  rfl

/-- `TICK` is enabled in every state, so weak fairness asks for nothing but its occurring again and again (40_tick_source.md
R100). -/
theorem tick_enabled (s : State) : step (s.push .tick) = .next (silent s (tickRegs s.regs)) := rfl

theorem Schedule.window_succ (σ : Schedule) (k n : Nat) : σ.window k (n + 1) = σ.window k n ++ [σ (k + n)] := by
  simp [Schedule.window, List.range_succ]

/-! ### Timelines -/

@[simp] theorem Timeline.after_tick (tl : Timeline) (period : Nat) :
    tl.after period .tick = { tl with now := tl.now + 1, sincePoll := tl.sincePoll + 1 } := rfl

/-- An event that is neither a tick nor a poll point leaves the timeline as it is. -/
theorem Timeline.after_of_other (tl : Timeline) (period : Nat) {e : Event} (ht : e ≠ .tick) (ha : e.command ≠ some .arm)
    (hp : e.command ≠ some .poll) : tl.after period e = tl := by
  simp only [Timeline.after, if_neg ht, if_neg ha, if_neg hp]

theorem Timeline.after_arm (tl : Timeline) (period : Nat) {w : CommandWord} (h : (Event.cmd w).command = some .arm) :
    tl.after period (.cmd w) = { tl with due := tl.now + period, sincePoll := 0 } := by
  simp [Timeline.after, h]

theorem Timeline.after_poll (tl : Timeline) (period : Nat) {w : CommandWord} (h : (Event.cmd w).command = some .poll) :
    tl.after period (.cmd w) =
      { tl with due := if tl.due ≤ tl.now then tl.due + period else tl.due, sincePoll := 0 } := by
  simp [Timeline.after, h]

end Sys2Proof.Machine
end

