-- ==== Sys2Proof/Machine/Assembler.lean ====
section
/-! DEFINITION. The assembler syntax of command lines (30_encoding.md R79) and the test directives, which are events of the
environment (R80). What a malformed line does is the model's choice: it assembles to nothing (log 14). -/

namespace Sys2Proof.Machine

/-- What one line stands for. -/
inductive AsmLine where
  /-- a blank line or a comment -/
  | blank
  /-- one command word -/
  | word (w : CommandWord)
  /-- `.rst` -/
  | rst
  /-- `.tick n` -/
  | tick (n : Nat)
  /-- `.flag m` -/
  | flag (m : Word)
  deriving DecidableEq, Repr

/-- The mnemonics of 30_encoding.md R74 with their operation code and format. -/
def mnemonicTable : List (String × OpCode × Format) :=
  [("CONFIGURE", 0x10, .d), ("VALUE", 0x11, .z), ("RDIF", 0x12, .z), ("CLRIF", 0x13, .m), ("RDIM", 0x14, .z),
   ("WRIM", 0x15, .m), ("INIT", 0x20, .z), ("STEP", 0x21, .z), ("SHUTDOWN", 0x22, .z), ("ARM", 0x30, .z),
   ("POLL", 0x31, .z), ("WRON", 0x40, .m), ("WRDIM", 0x41, .m), ("WRBLINK", 0x42, .m), ("SETON", 0x44, .m),
   ("SETDIM", 0x45, .m), ("SETBLINK", 0x46, .m), ("CLRON", 0x48, .m), ("CLRDIM", 0x49, .m), ("CLRBLINK", 0x4A, .m)]

/-- The value of a digit in a base of at most 16. -/
def digitValue (base : Nat) (c : Char) : Option Nat :=
  let n := c.toNat
  let v :=
    if 48 ≤ n ∧ n ≤ 57 then some (n - 48)
    else if 65 ≤ n ∧ n ≤ 70 then some (n - 55)
    else if 97 ≤ n ∧ n ≤ 102 then some (n - 87)
    else none
  v.filter (· < base)

/-- A numeral of at least one digit, most significant first, on top of `acc`. -/
def numeralFrom (base : Nat) (acc : Nat) : List Char → Option Nat
  | [] => some acc
  | c :: cs => (digitValue base c).bind fun v => numeralFrom base (acc * base + v) cs

/-- An unsigned integer literal, decimal or hexadecimal with `0x` (30_encoding.md R79). -/
def literal : List Char → Option Nat
  | [] => none
  | ['0', 'x'] => none
  | '0' :: 'x' :: cs => numeralFrom 16 0 cs
  | cs => numeralFrom 10 0 cs

/-- A literal of at most 32 bits (30_encoding.md R79). -/
def literal32 (cs : List Char) : Option Word :=
  (literal cs).bind fun n => if n < 2 ^ 32 then some (BitVec.ofNat 32 n) else none

/-- The words of a line: maximal runs of characters other than white space. -/
def wordsOf : List Char → List (List Char)
  | [] => []
  | c :: cs =>
    if c.isWhitespace then
      wordsOf cs
    else
      match cs, wordsOf cs with
      | [], _ => [[c]]
      | d :: _, ws =>
        if d.isWhitespace then [c] :: ws
        else match ws with
          | [] => [[c]]
          | w :: rest => (c :: w) :: rest

/-- The row of a mnemonic. -/
def mnemonicRow (name : List Char) : Option (OpCode × Format) :=
  (mnemonicTable.find? fun row => row.1.toList == name).map (·.2)

/-- A command line: a mnemonic alone (format `Z`) or with one operand (formats `D` and `M`). The operand is the whole `arg`: its
legality is the decoder's matter (30_encoding.md R79). -/
def assembleCommand (name : List Char) (operands : List (List Char)) : Option AsmLine :=
  match mnemonicRow name, operands with
  | some (op, .z), [] => some (.word (joinFields op 0))
  | some (op, .d), [a] => (literal32 a).map fun v => .word (joinFields op v)
  | some (op, .m), [a] => (literal32 a).map fun v => .word (joinFields op v)
  | _, _ => none

/-- One line of a program: blank, command or directive; a `;` starts a comment (30_encoding.md R79, R80). -/
def assembleLine (line : List Char) : Option AsmLine :=
  match wordsOf (line.takeWhile (· != ';')) with
  | [] => some .blank
  | name :: operands =>
    if name = ".rst".toList then (if operands = [] then some .rst else none)
    else if name = ".tick".toList then
      match operands with
      | [a] => (literal a).map .tick
      | _ => none
    else if name = ".flag".toList then
      match operands with
      | [a] => (literal32 a).map .flag
      | _ => none
    else assembleCommand name operands

/-- The events a line stands for; the draw of a reset is the environment's (30_encoding.md R80, 10_state.md R42). -/
def AsmLine.events (draw : ResetDraw) : AsmLine → List Event
  | .blank => []
  | .word w => [.cmd w]
  | .rst => [.rst draw]
  | .tick n => List.replicate n .tick
  | .flag m => [.flag m]

/-- `.repeat n` of the enclosed lines, "a notation only": the lines `n` times (30_encoding.md R80). -/
def repeatLines (n : Nat) (lines : List String) : List String := (List.replicate n lines).flatten

/-- A program, line by line; none if one line assembles to nothing. `draws k` is what the environment draws should line `k` be a reset:
each reset has its own draw, since the unspecified values may differ on each (10_state.md R42). -/
def assemble (draws : Nat → ResetDraw) : List String → Option (List Event)
  | [] => some []
  | line :: rest =>
    match assembleLine line.toList, assemble (fun k => draws (k + 1)) rest with
    | some l, some es => some (l.events (draws 0) ++ es)
    | _, _ => none

end Sys2Proof.Machine
end

