-- ==== Sys2Proof/Tests/Slice0.lean ====
section
/-! SUPPORT. Tests. Expected values are those of 95_test_vectors.md, or worked out by hand from the rules named beside them. -/

namespace Sys2Proof.Tests

open Sys2Proof.Machine

/-! ### The decoder: the words of 95_test_vectors.md section 2.1 -/

theorem test_decode_configure_0 : decode 0x1000000000#40 = .instr (.configure 0) := by decide
theorem test_decode_configure : decode 0x1000000004#40 = .instr (.configure 4) := by decide
theorem test_decode_value : decode 0x1100000000#40 = .instr .value := by decide
theorem test_decode_rdif : decode 0x1200000000#40 = .instr .rdif := by decide
theorem test_decode_clrif : decode 0x13FFFFFFFF#40 = .instr (.clrif 0xFFFFFFFF#32) := by decide
theorem test_decode_rdim : decode 0x1400000000#40 = .instr .rdim := by decide
theorem test_decode_wrim : decode 0x1500000001#40 = .instr (.wrim 1) := by decide
theorem test_decode_init : decode 0x2000000000#40 = .instr .init := by decide
theorem test_decode_step : decode 0x2100000000#40 = .instr .step := by decide
theorem test_decode_shutdown : decode 0x2200000000#40 = .instr .shutdown := by decide
theorem test_decode_arm : decode 0x3000000000#40 = .instr .arm := by decide
theorem test_decode_poll : decode 0x3100000000#40 = .instr .poll := by decide
theorem test_decode_wron : decode 0x4007FFFFFF#40 = .instr (.wron 0x07FFFFFF#32) := by decide
theorem test_decode_wrdim : decode 0x4100000008#40 = .instr (.wrdim 8) := by decide
theorem test_decode_wrblink : decode 0x4280000000#40 = .instr (.wrblink 0x80000000#32) := by decide
theorem test_decode_seton : decode 0x4400000010#40 = .instr (.seton 0x10#32) := by decide
theorem test_decode_setdim : decode 0x4500000008#40 = .instr (.setdim 8) := by decide
theorem test_decode_setblink : decode 0x4600000004#40 = .instr (.setblink 4) := by decide
theorem test_decode_clron : decode 0x4800000001#40 = .instr (.clron 1) := by decide
theorem test_decode_clrdim : decode 0x4900000008#40 = .instr (.clrdim 8) := by decide
theorem test_decode_clrblink : decode 0x4A00000002#40 = .instr (.clrblink 2) := by decide

/-- The refusals of section 2.1, each by its name. -/
theorem test_decode_refusals :
    decode 0x0000000000#40 = .rejected .unknownOp ∧ decode 0x2100000001#40 = .rejected .nonzeroArg ∧
    decode 0x3180000000#40 = .rejected .nonzeroArg ∧ decode 0x1000000008#40 = .rejected .nonzeroDivselPad ∧
    decode 0x100000000D#40 = .rejected .nonzeroDivselPad ∧ decode 0x4300000000#40 = .rejected .unknownOp ∧
    decode 0x4C00000001#40 = .rejected .unknownOp ∧ decode 0x1600000000#40 = .rejected .unknownOp ∧
    decode 0x2300000000#40 = .rejected .unknownOp ∧ decode 0x3200000000#40 = .rejected .unknownOp ∧
    decode 0xFFFFFFFFFF#40 = .rejected .unknownOp := by decide

/-- Reserved codes decode: `ReservedDivisor` is the command's matter (30_encoding.md R76). -/
theorem test_decode_reserved_codes :
    decode 0x1000000005#40 = .instr (.configure 5) ∧ decode 0x1000000007#40 = .instr (.configure 7) := by decide

theorem test_decode_table_word :
    decodeTableWord 40 0x4007FFFFFF = some (.wron 0x07FFFFFF#32) ∧ decodeTableWord 40 0x4300000000 = none ∧
    decodeTableWord 48 0x012100000000 = none := by decide

/-- The encodings of program P5 (95_test_vectors.md section 3). -/
theorem test_encode :
    encode (.configure 5) = 0x1000000005#40 ∧ encode (.seton 2) = 0x4400000002#40 ∧ encode .shutdown = 0x2200000000#40 := by
  decide

/-! ### Well-formedness -/

/-- With five divisors the codes 0 to 4 are legal and 5 is not (10_state.md R22). -/
theorem test_wellFormed_divsel :
    (Instr.configure 4).wellFormed (Params.cfgS 30000) = true ∧ (Instr.configure 5).wellFormed (Params.cfgS 30000) = false := by
  decide

theorem test_wellFormed_cfgS : (Params.cfgS 32768).WellFormed ∧ ¬(Params.cfgS 32769).WellFormed := by decide
theorem test_refuses_counterW : ¬({ Params.cfgS 1 with counterW := 1 } : Params).WellFormed ∧
    ¬({ Params.cfgS 1 with counterW := 33 } : Params).WellFormed := by decide
theorem test_refuses_fRef : ¬({ Params.cfgS 1 with fRef := 0 } : Params).WellFormed := by decide
theorem test_refuses_divisor_count : ¬({ Params.cfgS 1 with divisors := List.replicate 9 1 } : Params).WellFormed ∧
    ¬({ Params.cfgS 1 with divisors := [] } : Params).WellFormed := by decide
theorem test_refuses_divisor_zero : ¬({ Params.cfgS 1 with divisors := [1, 0, 64] } : Params).WellFormed := by decide
theorem test_refuses_div0 : ¬({ Params.cfgS 1 with div0 := 5 } : Params).WellFormed := by decide
theorem test_refuses_period : ¬(Params.cfgS 0).WellFormed := by decide
theorem test_refuses_ledCount : ¬({ Params.cfgS 1 with ledCount := 0, map := [] } : Params).WellFormed ∧
    ¬({ Params.cfgS 1 with ledCount := 33, map := List.replicate 33 ⟨0, 1⟩ } : Params).WellFormed := by decide
theorem test_refuses_portCount :
    ¬({ Params.cfgS 1 with portCount := 0, portW := 8, idle := 0 } : Params).WellFormed := by decide
theorem test_refuses_portW :
    ¬({ Params.cfgS 1 with portCount := 2, portW := 0, idle := 0 } : Params).WellFormed := by decide
theorem test_refuses_pinCount :
    ¬({ Params.cfgS 1 with portCount := 1, portW := 1, idle := 0 } : Params).WellFormed := by decide
theorem test_refuses_frameW : ¬({ Params.cfgS 1 with frameW := 6 } : Params).WellFormed := by decide
theorem test_refuses_ifW : ¬({ Params.cfgS 1 with ifW := 0 } : Params).WellFormed ∧
    ¬({ Params.cfgS 1 with ifW := 33 } : Params).WellFormed := by decide
theorem test_refuses_map_length : ¬({ Params.cfgS 1 with ledCount := 4 } : Params).WellFormed := by decide
theorem test_refuses_equal_pins : ¬({ Params.cfgS 1 with ledCount := 1, map := [⟨1, 1⟩] } : Params).WellFormed := by decide
theorem test_refuses_pin_range : ¬({ Params.cfgS 1 with ledCount := 1, map := [⟨0, 16⟩] } : Params).WellFormed ∧
    ¬({ Params.cfgS 1 with ledCount := 1, map := [⟨16, 1⟩] } : Params).WellFormed := by decide
theorem test_refuses_idle_convention : ¬({ Params.cfgS 1 with idle := 0x000F#16 } : Params).WellFormed ∧
    ¬({ Params.cfgS 1 with idle := 0x000C#16 } : Params).WellFormed := by decide

/-! ### Small states and what is looked at in a result -/

/-- CFG_S with `PERIOD = 30000`. -/
def cfgS : Config := { Params.cfgS 30000 with ok := by decide }

/-- CFG_S with `PERIOD = 100`. -/
def cfgS100 : Config := { Params.cfgS 100 with ok := by decide }

/-- CFG_S with a counter of 8 bits. -/
def cfgS8 : Config := { Params.cfgS 128 with counterW := 8, ok := by decide }

/-- One LED: `CURSOR_W = 1`. -/
def cfgOne : Config := { Params.cfgS 1 with ledCount := 1, map := [⟨0, 1⟩], ok := by decide }

/-- The machine of a configuration after `INIT` of a reset machine, with other registers given by `f`. -/
def ready (cfg : Config) (f : Regs cfg → Regs cfg) : State :=
  ⟨cfg, f (initRegs (Regs.afterReset cfg ResetDraw.named)), none, []⟩

/-- The registers of a state in the order of 10_state.md R20. -/
def registers (s : State) : List Nat :=
  [s.regs.counter.toNat, s.regs.divsel.toNat, s.regs.iflag.toNat, s.regs.imask.toNat, s.regs.deadline.toNat,
   s.regs.onMask.toNat, s.regs.dimMask.toNat, s.regs.blinkMask.toNat, s.regs.cursor.toNat, s.regs.frame.toNat,
   s.regs.out.toNat, s.regs.dir.toNat]

/-- The registers after a step. -/
def regsOf : Result → List Nat
  | .next t => registers t
  | .fault _ => []
  | .refused _ => []

/-- The response after a step. -/
def rspOf : Result → Option Response
  | .next t => t.response
  | .fault _ => none
  | .refused _ => none

/-! ### Events -/

/-- `counter = 0xFFFF` ticks to 0 (section 2.2). -/
theorem test_tick_wraps :
    regsOf (step ((ready cfgS fun r => { r with counter := 0xFFFF }).push .tick)) = [0, 0, 0, 0, 0, 0, 0, 0, 0, 0, 14, 15] := by
  decide

/-- `.flag 1` sets the flag and `irq` follows when the mask is 1; only bit 0 of the operand counts for `IF_W = 1` (section 2.2). -/
theorem test_flag_event :
    regsOf (step ((ready cfgS id).push (.flag 0xFFFFFFFF#32))) = [0, 0, 1, 0, 0, 0, 0, 0, 0, 0, 14, 15] ∧
    regsOf (step ((ready cfgS id).push (.flag 0xFFFFFFFE#32))) = [0, 0, 0, 0, 0, 0, 0, 0, 0, 0, 14, 15] := by decide

/-- `.rst`: eight registers at the table's values, four at whatever the environment draws (10_state.md R42). -/
theorem test_rst :
    regsOf (step ((ready cfgS id).push (.rst ⟨0x12345678#32, 7, 3, 0xFFFFFFFF#32⟩))) =
      [0x5678, 7, 1, 0, 0xFFFF, 0, 0, 0, 0, 0, 0, 0] := by decide

/-! ### Tick Source -/

/-- Section 2.2: from `counter = 0x1234, divsel = 0, iflag = 1, imask = 1, deadline = 0x2000`. -/
def busy : State :=
  ready cfgS fun r => { r with counter := 0x1234, iflag := 1, imask := 1, deadline := 0x2000 }

theorem test_configure : regsOf (exec (.configure 2) busy) = [0, 2, 0, 1, 0x2000, 0, 0, 0, 0, 0, 14, 15] := by decide
theorem test_configure_reserved :
    rspOf (exec (.configure 5) busy) = some ⟨0, .reservedDivisor⟩ ∧ regsOf (exec (.configure 5) busy) = registers busy := by decide
theorem test_illegal_word :
    rspOf (step (busy.push (.cmd 0x1100000001#40))) = some ⟨0, .illegalCommand⟩ ∧
    regsOf (step (busy.push (.cmd 0x1100000001#40))) = registers busy := by decide
theorem test_value :
    rspOf (exec .value (ready cfgS fun r => { r with counter := 0xFFFE })) = some ⟨0x0000FFFE#32, .ok⟩ := by decide
theorem test_rdif : rspOf (exec .rdif busy) = some ⟨1, .ok⟩ ∧ regsOf (exec .rdif busy) = registers busy := by decide
theorem test_clrif : regsOf (exec (.clrif 0xFFFFFFFE#32) busy) = registers busy ∧
    regsOf (exec (.clrif 1) busy) = [0x1234, 0, 0, 1, 0x2000, 0, 0, 0, 0, 0, 14, 15] := by decide
theorem test_wrim : regsOf (exec (.wrim 0xFFFFFFFF#32) (ready cfgS id)) = [0, 0, 0, 1, 0, 0, 0, 0, 0, 0, 14, 15] := by decide
theorem test_rdim : rspOf (exec .rdim busy) = some ⟨1, .ok⟩ := by decide
theorem test_irq : busy.regs.irq = true ∧ ({ busy.regs with imask := 0 } : Regs cfgS).irq = false ∧
    ({ busy.regs with iflag := 0 } : Regs cfgS).irq = false := by decide

/-- The conversion table of section 2.2. -/
theorem test_duration_to_ticks :
    durationToTicks 8000000 (1 / 10) 64 = 12500 ∧ durationToTicks 8000000 (1 / 10) 1024 = 781 ∧
    durationToTicks 8000000 (1 / 1000) 1024 = 7 ∧ durationToTicks 8000000 (-1 / 1000) 1024 = -7 ∧
    durationToTicks 20000000 (86 / 1000) 64 = 26875 ∧ durationToTicks 8000000 (1 / 100000) 1024 = 0 := by decide +kernel

/-- The refusals as `PERIOD` of section 2.2. -/
theorem test_build_period :
    buildPeriod (Params.cfgS 0) (1 / 10) = some 12500 ∧ buildPeriod (Params.cfgS 0) 0 = none ∧
    buildPeriod { Params.cfgS 0 with div0 := 0 } (1 / 10) = none ∧
    buildPeriod { Params.cfgS 0 with div0 := 4 } (4194304 / 1000000) = some 32768 := by decide +kernel

/-! ### Scan Engine -/

/-- The truth table of section 2.3 at `c = 0`: dimmed at frames 0, 1, 8, 248; blinking at 63, 64, 127, 128; both at 64, 65, 72. -/
theorem test_lit :
    ([0, 1, 8, 248].map (lit 1 1 0 0) = [true, false, true, true]) ∧
    ([63, 64, 127, 128].map (lit 1 0 1 0) = [false, true, true, false]) ∧
    ([64, 65, 72].map (lit 1 1 1 0) = [true, false, true]) ∧ lit 0 1 1 0 64 = false ∧ lit 1 0 0 0 1 = true := by decide

/-- Patterns of CFG_T (section 0): LEDs 0, 8, 26. -/
theorem test_pattern_cfgT :
    (Config.reference.map.map fun e => (pattern Config.reference true e).toNat).take 9 =
      [0x0FF1, 0x0FE9, 0x0FD9, 0x0FB9, 0x0F79, 0x0EF9, 0x0DF9, 0x0BF9, 0x07F9] ∧
    Config.reference.map[26]?.map (fun e => (pattern Config.reference true e).toNat) = some 0x07FC := by decide

/-- Section 2.3, `INIT` of CFG_T: lines 0 to 11 with the bits of `0xFF8`, the others `Z`. -/
theorem test_init_cfgT :
    regsOf (exec .init (State.afterReset Config.reference ResetDraw.named [])) = [0, 0, 0, 0, 0, 0, 0, 0, 0, 0, 0x0FF8, 0x0FFF] ∧
    (ready Config.reference id).regs.lines =
      [.low, .low, .low, .high, .high, .high, .high, .high, .high, .high, .high, .high, .z, .z, .z, .z] := by decide

/-- Section 2.3: at `cursor = 2, frame = 0` with LED 2 on and dimmed the `STEP` lights it and advances to frame 1. -/
theorem test_step_uses_frame_before :
    regsOf (exec .step (ready cfgS fun r => { r with onMask := 4, dimMask := 4, cursor := 2 })) =
      [0, 0, 0, 0, 0, 4, 4, 0, 0, 1, 7, 15] := by decide

/-- Section 2.3: at `cursor = 2, frame = 7` it is dark, and frame 8 begins; frame 255 wraps to 0; one LED advances the frame. -/
theorem test_step_advance :
    regsOf (exec .step (ready cfgS fun r => { r with onMask := 4, dimMask := 4, cursor := 2, frame := 7 })) =
      [0, 0, 0, 0, 0, 4, 4, 0, 0, 8, 14, 15] ∧
    regsOf (exec .step (ready cfgS fun r => { r with cursor := 2, frame := 255 })) = [0, 0, 0, 0, 0, 0, 0, 0, 0, 0, 14, 15] ∧
    regsOf (exec .step (ready cfgOne id)) = [0, 0, 0, 0, 0, 0, 0, 0, 0, 1, 14, 3] := by decide

/-- Section 2.3: `SHUTDOWN` keeps cursor and frame. -/
theorem test_shutdown :
    regsOf (exec .shutdown (ready Config.reference fun r => { r with out := 0x0FF1, cursor := 1, frame := 5 })) =
      [0, 0, 0, 0, 0, 0, 0, 0, 1, 5, 0x0FF8, 0] := by decide

/-- Program P4's end: port 0 is `0xF1`, port 1 is `0x0F`. -/
theorem test_ports :
    ((ready Config.reference fun r => { r with out := 0x0FF1 }).regs.port 0).toNat = 0xF1 ∧
    ((ready Config.reference fun r => { r with out := 0x0FF1 }).regs.port 1).toNat = 0x0F := by decide

/-! ### Deadline Comparator -/

/-- The table of section 2.4: both ends of the window, a wrapped deadline, a wrapped counter. -/
theorem test_reached :
    reached (32767 : BitVec 16) 0 = true ∧ reached (32768 : BitVec 16) 0 = false ∧ reached (0 : BitVec 16) 65535 = true ∧
    reached (65500 : BitVec 16) 100 = false ∧ reached (65000 : BitVec 16) 24464 = false ∧ reached (3 : BitVec 8) 253 = true := by
  decide

/-- Section 2.4: `counter = 60000, PERIOD = 30000` arms 24464. -/
theorem test_arm :
    regsOf (exec .arm (ready cfgS fun r => { r with counter := 60000 })) = [60000, 0, 0, 0, 24464, 0, 0, 0, 0, 0, 14, 15] := by
  decide

/-- Program P3, fourth `POLL` (false variant F1): a later unsigned counter, not reached. -/
theorem test_poll_is_no_unsigned_comparison :
    rspOf (exec .poll (ready cfgS fun r => { r with counter := 65000, deadline := 24464 })) = some ⟨0, .ok⟩ := by decide

/-- Program P6, first `POLL` (false variant F4): re-armed from the old deadline. -/
theorem test_poll_rearms_from_the_old_deadline :
    regsOf (exec .poll (ready cfgS100 fun r => { r with counter := 350, deadline := 100, onMask := 7 })) =
      [350, 0, 0, 0, 200, 7, 0, 0, 1, 0, 13, 15] := by decide

/-! ### Mask interface (section 2.5) -/

theorem test_wron : regsOf (exec (.wron 2) (ready cfgS fun r => { r with onMask := 0x11 })) =
    [0, 0, 0, 0, 0, 2, 0, 0, 0, 0, 14, 15] := by decide
theorem test_wrdim : regsOf (exec (.wrdim 2) (ready cfgS fun r => { r with dimMask := 0x11 })) =
    [0, 0, 0, 0, 0, 0, 2, 0, 0, 0, 14, 15] := by decide
theorem test_wrblink : regsOf (exec (.wrblink 2) (ready cfgS fun r => { r with blinkMask := 0x11 })) =
    [0, 0, 0, 0, 0, 0, 0, 2, 0, 0, 14, 15] := by decide
theorem test_seton : regsOf (exec (.seton 0x80000000#32) (ready cfgS fun r => { r with onMask := 0x11 })) =
    [0, 0, 0, 0, 0, 0x80000011, 0, 0, 0, 0, 14, 15] := by decide
theorem test_setdim : regsOf (exec (.setdim 2) (ready cfgS fun r => { r with dimMask := 0x11 })) =
    [0, 0, 0, 0, 0, 0, 0x13, 0, 0, 0, 14, 15] := by decide
theorem test_setblink : regsOf (exec (.setblink 1) (ready cfgS fun r => { r with blinkMask := 0x11 })) =
    [0, 0, 0, 0, 0, 0, 0, 0x11, 0, 0, 14, 15] := by decide
theorem test_clron : regsOf (exec (.clron 1) (ready cfgS fun r => { r with onMask := 0x11, out := 0x000D })) =
    [0, 0, 0, 0, 0, 0x10, 0, 0, 0, 0, 13, 15] := by decide
theorem test_clrdim : regsOf (exec (.clrdim 2) (ready cfgS fun r => { r with dimMask := 0x11 })) =
    [0, 0, 0, 0, 0, 0, 0x11, 0, 0, 0, 14, 15] := by decide
theorem test_clrblink : regsOf (exec (.clrblink 0xFFFFFFFF#32) (ready cfgS fun r => { r with blinkMask := 0x11 })) =
    [0, 0, 0, 0, 0, 0, 0, 0, 0, 0, 14, 15] := by decide

/-! ### Assembler lines (30_encoding.md R79, R80) -/

theorem test_assemble_line :
    assembleLine "WRON 0x1  ; one LED".toList = some (.word 0x4000000001#40) ∧
    assembleLine "CONFIGURE 13".toList = some (.word 0x100000000D#40) ∧ assembleLine "VALUE 1".toList = none ∧
    assembleLine ".flag 1".toList = some (.flag 1) ∧ assembleLine "; text".toList = some .blank := by decide +kernel

theorem test_assemble :
    assemble (fun k => ⟨0, 0, 0, BitVec.ofNat 32 k⟩) (repeatLines 2 [".rst", "STEP"] ++ [".tick 2"]) =
      some [.rst ⟨0, 0, 0, 0⟩, .cmd 0x2100000000#40, .rst ⟨0, 0, 0, 2⟩, .cmd 0x2100000000#40, .tick, .tick] := by
  decide +kernel

/-! ### How the host places a command -/

theorem test_withFetchWord_runs :
    rspOf (step (State.reset.withFetchWord 40 0x2100000000)) = some ⟨0, .ok⟩ ∧
    regsOf (step (State.reset.withFetchWord 40 0x2000000000)) = [0, 0, 0, 0, 0, 0, 0, 0, 0, 0, 0x0FF8, 0x0FFF] := by decide

/-! ### States and operands that meet the hypotheses of the statements -/

theorem test_witness_words_outside_the_table :
    (∀ row ∈ opcodeRows, 0x4300000000#40 &&& row.2 ≠ row.1) ∧ (∀ row ∈ opcodeRows, 0x1000000008#40 &&& row.2 ≠ row.1) ∧
    (∃ row ∈ opcodeRows, 0x1000000007#40 &&& row.2 = row.1) ∧ ∃ row ∈ opcodeRows, 0x4AFFFFFFFF#40 &&& row.2 = row.1 := by
  simp [opcodeRows]

theorem test_witness_step_runs_decoded_command :
    (busy.push (.cmd 0x3100000000#40)).inputs = .cmd 0x3100000000#40 :: [] ∧ decode 0x3100000000#40 = .instr .poll := by decide

theorem test_witness_counter_runs : busy.inputs = [] := by decide

theorem test_witness_nothing_is_driven_after_reset :
    step (busy.push (.rst ⟨1, 7, 1, 1⟩)) = .next (State.afterReset cfgS ⟨1, 7, 1, 1⟩ []) := rfl

theorem test_witness_configure : (4 : DivSel).toNat < busy.cfg.divisors.length := by decide

/-- Both branches of the reserved code, and both boundary codes. -/
theorem test_witness_reserved_divisor :
    busy.cfg.divisors.length ≤ (5#32).toNat % 8 ∧ ¬busy.cfg.divisors.length ≤ (4#32).toNat % 8 ∧ (7#32).toNat / 8 = 0 ∧
    (8#32).toNat / 8 ≠ 0 := by decide

theorem test_witness_counter_counts_ticks :
    busy.CursorInRange ∧
      ∀ e ∈ [Event.tick, .cmd (encode .arm), .flag 1, .cmd (encode .poll), .tick], e.keepsTimeBase = true := by decide

/-- Quotients of either sign, with the least divisor. -/
theorem test_witness_duration :
    1 ≤ 1 ∧ (0 : ℚ) ≤ (0 : ℚ) * (8000000 : ℕ) / (1 : ℕ) ∧ ¬(0 : ℚ) ≤ (-1 / 1000 : ℚ) * (8000000 : ℕ) / (1024 : ℕ) := by
  decide +kernel

theorem test_witness_build_period :
    (Params.cfgS 0).divisors[(Params.cfgS 0).div0]? = some 64 ∧ durationToTicks 8000000 (1 / 10) 64 = (12500 : ℕ) := by
  decide +kernel

/-- The first and the last entry of the table. -/
theorem test_witness_step_entry :
    busy.cfg.map[busy.regs.cursor.toNat]? = some ⟨0, 1⟩ ∧
    (ready cfgS fun r => { r with cursor := 2 }).cfg.map[(ready cfgS fun r => { r with cursor := 2 }).regs.cursor.toNat]? =
      some ⟨0, 3⟩ := by decide

/-- Masks of each row of the truth table, at the last bit; frames on both sides of bit 6. -/
theorem test_witness_lit :
    (0#32).getLsbD 31 = false ∧ (0x80000000#32).getLsbD 31 = true ∧ 64 % 8 = 0 ∧ (64).testBit 6 = true ∧
    (63).testBit 6 = false ∧ ¬63 % 8 = 0 := by decide

/-- The cursor in range at both ends. -/
theorem test_witness_cursor_in_range :
    busy.CursorInRange ∧ (ready cfgS fun r => { r with cursor := 2, frame := 255 }).CursorInRange := by decide

theorem test_witness_sequencing : (ready cfgS id).regs.cursor = 0 ∧ (ready cfgS id).regs.frame = 0 := by
  constructor <;> rfl

/-- The two events that start the scan, and events of a run after them. -/
theorem test_witness_sequencing_events :
    (Event.rst ⟨1, 7, 1, 1⟩).startsScan = true ∧ (Event.cmd 0x2000000000#40).startsScan = true ∧
    ∀ e ∈ [Event.tick, .cmd 0x3100000000#40, .cmd 0x2100000000#40, .flag 1, .cmd 0x2200000000#40, .cmd 0x4400000002#40],
      e.startsScan = false := by decide

/-- A `POLL` that fires counts as one `STEP`, one that does not as none (10_state.md R39). -/
theorem test_stepsTaken :
    stepsTaken 4 { ready cfgS (fun r => { r with deadline := 1 }) with
      inputs := [.cmd 0x3100000000#40, .tick, .cmd 0x3100000000#40, .cmd 0x2100000000#40] } = 2 := by decide

/-- Bits of the three masks as the dimming law, the blink law and the law of both ask. -/
theorem test_witness_modulation :
    (2#32).getLsbD 1 = true ∧ (4#32).getLsbD 1 = false ∧ (7#32).getLsbD 1 = true := by decide

/-- Masks that differ everywhere but at the cursor. -/
theorem test_witness_step_reads_one_bit :
    busy.CursorInRange ∧ (0xFFFFFFFE#32).getLsbD busy.regs.cursor.toNat = busy.regs.onMask.getLsbD busy.regs.cursor.toNat ∧
    (0xFFFFFFFE#32).getLsbD busy.regs.cursor.toNat = busy.regs.dimMask.getLsbD busy.regs.cursor.toNat ∧
    (0xFFFFFFFE#32).getLsbD busy.regs.cursor.toNat = busy.regs.blinkMask.getLsbD busy.regs.cursor.toNat := by decide

/-- The first and the last pin. -/
theorem test_witness_pin : 0 < cfgS.pinCount ∧ 15 < cfgS.pinCount := by decide

/-- A pin of the map and a pin outside it. -/
theorem test_witness_init_pins :
    (∃ e ∈ busy.cfg.map, 3 = e.hi ∨ 3 = e.lo) ∧ ¬∃ e ∈ busy.cfg.map, 4 = e.hi ∨ 4 = e.lo := by decide

/-- Both ends of the range in which `POLL` does not fire: differences 0x8000 and 0xFFFF. -/
theorem test_witness_poll_before :
    2 ^ (16 - 1) ≤ ((32768#16).toNat + (2 ^ 16 - (0#16).toNat)) % 2 ^ 16 ∧
    2 ^ (cfgS.counterW - 1) ≤
      ((ready cfgS fun r => { r with deadline := 1 }).regs.counter.toNat +
        (2 ^ cfgS.counterW - (ready cfgS fun r => { r with deadline := 1 }).regs.deadline.toNat)) % 2 ^ cfgS.counterW := by
  decide

/-- Both ends of the range in which it fires: differences 0 and 0x7FFF. -/
theorem test_witness_poll_at :
    (ready cfgS fun r => { r with counter := 0x7FFF }).CursorInRange ∧
    ((32767#16).toNat + (2 ^ 16 - (0#16).toNat)) % 2 ^ 16 < 2 ^ (16 - 1) ∧
    ((ready cfgS id).regs.counter.toNat + (2 ^ cfgS.counterW - (ready cfgS id).regs.deadline.toNat)) % 2 ^ cfgS.counterW <
      2 ^ (cfgS.counterW - 1) := by decide

/-- Both ends of the window, `W = 8`. -/
theorem test_witness_window :
    1 ≤ 8 ∧ -(2 ^ (8 - 1) : Int) ≤ 0 - 128 ∧ (0 : Int) - 128 ≤ 2 ^ (8 - 1) - 1 ∧ -(2 ^ (8 - 1) : Int) ≤ 127 - 0 ∧
    (127 : Int) - 0 ≤ 2 ^ (8 - 1) - 1 := by decide

theorem test_witness_half : 1 ≤ 1 := by decide

/-- `W = 8` with the longest period, 128: polls 128 ticks after `ARM`, then with no tick, then with one. -/
theorem test_witness_scheduling :
    (ready cfgS8 id).CursorInRange ∧ 128 ≤ (ready cfgS8 id).cfg.period ∧
    ∀ seg ∈ [List.replicate 128 Event.tick, [.flag 1, .cmd (encode .value)]] ++ [.tick :: [.cmd (encode (.seton 1))]],
      (∀ e ∈ seg, e.betweenPolls = true) ∧ ticksIn seg ≤ 128 ∧ ∀ e ∈ seg, e.leavesCursor = true := by decide +kernel

/-- Program P6's start: the count of ticks beyond a wrap, the last tick the gap admits, and a `POLL` exactly at the deadline. -/
theorem test_witness_timeline :
    (ready cfgS100 fun r => { r with counter := 99, deadline := 100 }).OnTimeline 100 ⟨65536 + 99, 65536 + 100, 99⟩ ∧ 99 < 100 ∧
    (ready cfgS100 fun r => { r with counter := 100, deadline := 100 }).OnTimeline 100 ⟨65536 + 100, 65536 + 100, 100⟩ ∧
    Event.tick.keepsTimeBase = true ∧ (Event.cmd 0x3100000000#40).keepsTimeBase = true ∧ 100 ≤ cfgS100.period :=
  ⟨⟨by decide, by decide, by decide, by decide, by decide, by decide⟩, by decide,
    ⟨by decide, by decide, by decide, by decide, by decide, by decide⟩, by decide, by decide, by decide⟩

/-- `ARM`, then a tick and a `POLL` in turn, for ever. -/
def tickAndPoll : Schedule := fun n =>
  if n = 0 then .cmd (encode .arm) else if n % 2 = 1 then .tick else .cmd (encode .poll)

theorem tickAndPoll_poll {n : Nat} (h0 : n ≠ 0) (h : n % 2 = 0) : (tickAndPoll n).command = some .poll := by
  rw [tickAndPoll, if_neg h0, if_neg (by omega)]
  decide

theorem tickAndPoll_tick {n : Nat} (h : n % 2 = 1) : tickAndPoll n = .tick := by
  rw [tickAndPoll, if_neg (by omega), if_pos h]

/-- It ticks and polls for ever, and no two ticks come without a `POLL` between. -/
theorem test_witness_fair_polling :
    (ready cfgS id).CursorInRange ∧ 1 ≤ cfgS.period ∧ tickAndPoll 0 = .cmd (encode .arm) ∧
    (∀ n, 1 ≤ n → (tickAndPoll n).keepsTimeBase = true ∧ (tickAndPoll n).command ≠ some .arm) ∧
    (∀ k n, (∀ i < n, (tickAndPoll (k + i)).command ≠ some .poll) → ticksIn (tickAndPoll.window k n) ≤ 1) ∧
    (∀ n, ∃ m, n ≤ m ∧ (tickAndPoll m).command = some .poll) ∧ tickAndPoll.CounterFair := by
  refine ⟨by decide, by decide, rfl, fun n hn => ?_, fun k n h => ?_, fun n => ?_, fun n => ?_⟩
  · rcases Nat.mod_two_eq_zero_or_one n with h | h
    · rw [tickAndPoll, if_neg (by omega), if_neg (by omega)]
      decide
    · rw [tickAndPoll_tick h]
      decide
  · match n with
    | 0 => exact Nat.zero_le _
    | 1 => exact List.count_le_length
    | 2 =>
      rcases Nat.mod_two_eq_zero_or_one k with hk | hk
      · have : k = 0 := by
          by_contra hne
          exact h 0 (by omega) (tickAndPoll_poll hne hk)
        subst this
        decide
      · exact absurd (tickAndPoll_poll (by omega) (by omega)) (h 1 (by omega))
    | n + 3 =>
      rcases Nat.mod_two_eq_zero_or_one k with hk | hk
      · exact absurd (tickAndPoll_poll (by omega) (by omega)) (h 2 (by omega))
      · exact absurd (tickAndPoll_poll (by omega) (by omega)) (h 1 (by omega))
  · exact ⟨2 * n + 2, by omega, tickAndPoll_poll (by omega) (by omega)⟩
  · exact ⟨2 * n + 1, by omega, tickAndPoll_tick (by omega)⟩

/-- Program P6 before its first `POLL`: lateness 250, so three polls fire and the fourth does not; `n` at both ends. -/
theorem test_witness_late_polls :
    (ready cfgS100 fun r => { r with counter := 350, deadline := 100 }).CursorInRange ∧
    (sdiffW (350#16) 100#16).toNat < 2 ^ (cfgS100.counterW - 1) ∧ 0 ≤ (sdiffW (350#16) 100#16).toNat / cfgS100.period + 1 ∧
    3 ≤ (sdiffW (350#16) 100#16).toNat / cfgS100.period + 1 := by decide

/-- The invariant holds in a state that shows LED 2, and a step goes on from it. -/
theorem test_witness_invariant :
    (ready cfgS fun r => { r with out := 0x0007, onMask := 7 }).Inv ∧
    (rspOf (step ((ready cfgS fun r => { r with out := 0x0007, onMask := 7 }).push (.cmd 0x2100000000#40)))).isSome := by decide

/-- A pattern of the map, the idle pattern, and an event that is no reset. -/
theorem test_witness_out_is_a_pattern :
    (ready cfgS fun r => { r with out := 0x000B }).regs.OutIsAPattern ∧ busy.regs.OutIsAPattern ∧
    (busy.push .tick).nextEvent.isRst = false := by decide

/-- A step that is no reset and goes on. -/
theorem test_witness_next :
    (busy.push (.cmd 0x1500000000#40)).nextEvent.isRst = false ∧
    ∃ t, step (busy.push (.cmd 0x1500000000#40)) = .next t :=
  ⟨by decide, _, runEvent_cmd_of_instr (i := .wrim 0) (by decide) _⟩

/-- A step that answers with a fault status, and one that is no command, from a state in which a response stands. -/
theorem test_witness_response :
    (rspOf (step (({ busy with response := some ⟨7, .ok⟩ } : State).push (.cmd 0x1100000001#40)))).map (·.status) =
      some .illegalCommand ∧
    step (({ busy with response := some ⟨7, .ok⟩ } : State).push .tick) = .next (silent busy (tickRegs busy.regs)) ∧
    (silent busy (tickRegs busy.regs)).outputs.rspValid = false := ⟨by decide, rfl, rfl⟩

/-- A command that may be repeated, and its first execution. -/
theorem test_witness_repeat :
    Instr.arm ≠ .step ∧ Instr.arm ≠ .poll ∧
    ∃ t, exec .arm busy = .next t := ⟨by decide, by decide, _, rfl⟩

theorem test_witness_interrupts :
    busy.regs.AgreeOffInterrupts (cfg := cfgS) { busy.regs with iflag := 0, imask := 0, divsel := 7 } ∧
    busy.regs.cursor.toNat < cfgS.ledCount := ⟨⟨rfl, rfl, rfl, rfl, rfl, rfl, rfl, rfl, rfl⟩, by decide⟩

/-- Coming events whose first, and whose second, is a command word other than `RDIF` and `RDIM`. -/
theorem test_witness_interrupts_answers :
    [Event.cmd 0x1100000000#40].head? = some (.cmd 0x1100000000#40) ∧
    [Event.tick, .cmd 0x3100000000#40][1]? = some (.cmd 0x3100000000#40) ∧ 2 = 1 + 1 ∧
    decode 0x1100000000#40 ≠ .instr .rdif ∧ decode 0x1100000000#40 ≠ .instr .rdim ∧
    decode 0x3100000000#40 ≠ .instr .rdif ∧ decode 0x3100000000#40 ≠ .instr .rdim := by decide

theorem test_witness_scan_engine :
    Instr.step ≠ .poll ∧ busy.regs.AgreeOnScan (cfg := cfgS) { busy.regs with counter := 5, deadline := 6, iflag := 0 } ∧
    busy.regs.cursor.toNat < cfgS.ledCount := ⟨by decide, ⟨rfl, rfl, rfl, rfl, rfl, rfl, rfl⟩, by decide⟩

end Sys2Proof.Tests
end

/-! ## Proofs: the state and its registers (10_state.md)

First what a step can do, said once: `step_next_cases` takes a step apart by its event, `step_writes` says which registers it may
have written, `step_scanEffect` what it did to the cursor, the frame and the lines. The statements of the family follow from these. -/

namespace Sys2Proof.Machine

/-! ### A step by its event -/

/-- The state whose next event is taken from the coming ones: what that event acts on. -/
abbrev State.afterFetch (s : State) : State := { s with inputs := s.inputs.tail }

theorem step_eq_runEvent (s : State) : step s = runEvent s.nextEvent s.afterFetch := by
  rcases step_cases s with ⟨hin, hev, hs⟩ | ⟨e, rest, hin, hev, hs⟩
  · rw [hs, hev, State.afterFetch, hin, List.tail_nil, ← hin]
  · rw [hs, hev, State.afterFetch, hin, List.tail_cons]

/-- What a step was, when it leaves a state: a reset, a tick, a flag-set, a command executed, or a word rejected. -/
theorem step_next_cases {s t : State} (h : step s = .next t) :
    (∃ draw, s.nextEvent = .rst draw ∧ t = resetState draw s.afterFetch) ∨
    (s.nextEvent = .tick ∧ t = silent s.afterFetch (tickRegs s.regs)) ∨
    (∃ m, s.nextEvent = .flag m ∧ t = silent s.afterFetch (flagRegs s.regs m)) ∨
    (∃ w i, s.nextEvent = .cmd w ∧ decode w = .instr i ∧ exec i s.afterFetch = .next t) ∨
    ∃ w j, s.nextEvent = .cmd w ∧ decode w = .rejected j ∧ t = raise s.afterFetch .illegalCommand := by
  rw [step_eq_runEvent] at h
  cases he : s.nextEvent with
  | rst draw => rw [he] at h; cases h; exact .inl ⟨draw, rfl, rfl⟩
  | tick => rw [he] at h; cases h; exact .inr (.inl ⟨rfl, rfl⟩)
  | flag m => rw [he] at h; cases h; exact .inr (.inr (.inl ⟨m, rfl, rfl⟩))
  | cmd w =>
    rw [he] at h
    refine .inr (.inr (.inr ?_))
    cases hd : decode w with
    | instr i => rw [runEvent_cmd_of_instr hd] at h; exact .inl ⟨w, i, rfl, hd, h⟩
    | rejected j => rw [runEvent_cmd_of_rejected hd] at h; cases h; exact .inr ⟨w, j, rfl, hd, rfl⟩

theorem Event.command_of_instr {w : CommandWord} {i : Instr} (h : decode w = .instr i) : (Event.cmd w).command = some i := by
  simp [Event.command, h, Decoded.toOption]

theorem Event.command_of_rejected {w : CommandWord} {j : Reject} (h : decode w = .rejected j) :
    (Event.cmd w).command = none := by
  simp [Event.command, h, Decoded.toOption]

/-- Only a command word makes the block execute a command, and it is the one that it decodes to. -/
theorem Event.command_eq_some_iff {e : Event} {i : Instr} : e.command = some i ↔ ∃ w, e = .cmd w ∧ decode w = .instr i := by
  constructor
  · intro h
    cases e with
    | cmd w =>
      cases hd : decode w with
      | instr j => rw [Event.command_of_instr hd] at h; cases h; exact ⟨w, rfl, hd⟩
      | rejected j => rw [Event.command_of_rejected hd] at h; cases h
    | _ => cases h
  · rintro ⟨w, rfl, hd⟩
    exact Event.command_of_instr hd

/-! ### Which registers an event writes -/

section Writes
variable {cfg : Config}

/-- The column "written by" of 10_state.md R20: from `r` to `r'` only the registers are changed for which the table names the
event. -/
structure Regs.WrittenAsTabled (e : Event) (r r' : Regs cfg) : Prop where
  counter : r'.counter = r.counter ∨ e = .tick ∨ ∃ d, e.command = some (.configure d)
  divsel : r'.divsel = r.divsel ∨ ∃ d, e.command = some (.configure d)
  iflag : r'.iflag = r.iflag ∨ (∃ m, e = .flag m) ∨ (∃ d, e.command = some (.configure d)) ∨
    ∃ m, e.command = some (.clrif m)
  imask : r'.imask = r.imask ∨ ∃ m, e.command = some (.wrim m)
  deadline : r'.deadline = r.deadline ∨ e.command = some .arm ∨ e.command = some .poll
  onMask : r'.onMask = r.onMask ∨ e.command = some .init ∨
    ∃ m, e.command ∈ [some (.wron m), some (.seton m), some (.clron m)]
  dimMask : r'.dimMask = r.dimMask ∨ e.command = some .init ∨
    ∃ m, e.command ∈ [some (.wrdim m), some (.setdim m), some (.clrdim m)]
  blinkMask : r'.blinkMask = r.blinkMask ∨ e.command = some .init ∨
    ∃ m, e.command ∈ [some (.wrblink m), some (.setblink m), some (.clrblink m)]
  cursor : r'.cursor = r.cursor ∨ e.command ∈ [some .init, some .step, some .poll]
  frame : r'.frame = r.frame ∨ e.command ∈ [some .init, some .step, some .poll]
  out : r'.out = r.out ∨ e.command ∈ [some .init, some .step, some .poll, some .shutdown]
  dir : r'.dir = r.dir ∨ e.command ∈ [some .init, some .shutdown]

theorem Regs.writtenAsTabled_refl (e : Event) (r : Regs cfg) : r.WrittenAsTabled e r := by
  constructor <;> exact .inl rfl

/-- A scan step writes cursor, frame and `out`: what the table allows `STEP` and `POLL`. -/
theorem scanStep_writtenAsTabled {e : Event} {r r' : Regs cfg} (he : e.command = some .step ∨ e.command = some .poll)
    (h : scanStep r = some r') : r.WrittenAsTabled e r' := by
  obtain ⟨p, -, rfl⟩ := scanStep_eq_some_iff.mp h
  have hmem : e.command ∈ [some .init, some .step, some .poll] ∧
      e.command ∈ [some .init, some .step, some .poll, some .shutdown] := by
    rcases he with he | he <;> simp [he]
  exact { r.writtenAsTabled_refl e with cursor := .inr hmem.1, frame := .inr hmem.1, out := .inr hmem.2 }

end Writes

/-- A `STEP` that completes was one scan step. -/
theorem exec_step_next {s t : State} (h : exec .step s = .next t) : ∃ r, scanStep s.regs = some r ∧ t = reply s r 0 := by
  simp only [exec, execStep] at h
  split at h
  case h_1 r hs => cases h; exact ⟨r, hs, rfl⟩
  case h_2 => cases h

/-- A `POLL` fires at the deadline, as one scan step and the re-arm; before it, it only answers. -/
theorem exec_poll_next {s t : State} (h : exec .poll s = .next t) :
    (reached s.regs.counter s.regs.deadline = true ∧ ∃ r, scanStep s.regs = some r ∧ t = reply s (rearmRegs r) 1) ∨
    reached s.regs.counter s.regs.deadline = false ∧ t = reply s s.regs 0 := by
  simp only [exec, execPoll] at h
  split at h
  case isTrue hr =>
    split at h
    case h_1 r hs => cases h; exact .inl ⟨hr, r, hs, rfl⟩
    case h_2 => cases h
  case isFalse hr => cases h; exact .inr ⟨Bool.eq_false_iff.mpr hr, rfl⟩

/-- A command executes, answers `OK` and writes its registers of the table, or it is `CONFIGURE` with a reserved code. -/
theorem exec_next_cases {e : Event} {i : Instr} {s t : State} (he : e.command = some i) (h : exec i s = .next t) :
    (∃ (r : Regs s.cfg) (v : Word), t = reply s r v ∧ s.regs.WrittenAsTabled e r) ∨
    (∃ d, i = .configure d ∧ ¬s.cfg.DivselLegal d) ∧ t = raise s .reservedDivisor := by
  cases i with
  | configure d =>
    by_cases hd : s.cfg.DivselLegal d
    · rw [exec_configure_of_legal hd] at h
      cases h; exact .inl ⟨_, _, rfl, by constructor <;> simp [he, configureRegs]⟩
    · rw [exec_configure_of_reserved hd] at h
      cases h; exact .inr ⟨⟨d, rfl, hd⟩, rfl⟩
  | step =>
    obtain ⟨r, hs, rfl⟩ := exec_step_next h
    exact .inl ⟨r, _, rfl, scanStep_writtenAsTabled (by simp [he]) hs⟩
  | poll =>
    rcases exec_poll_next h with ⟨-, r, hs, rfl⟩ | ⟨-, rfl⟩
    · have hw := scanStep_writtenAsTabled (e := e) (by simp [he]) hs
      exact .inl ⟨_, _, rfl, { hw with deadline := .inr (.inr he) }⟩
    · exact .inl ⟨_, _, rfl, s.regs.writtenAsTabled_refl e⟩
  | init => cases h; exact .inl ⟨_, _, rfl, by constructor <;> simp [he, initRegs, writeLines]⟩
  | shutdown => cases h; exact .inl ⟨_, _, rfl, by constructor <;> simp [he, shutdownRegs, writeLines]⟩
  | arm => cases h; exact .inl ⟨_, _, rfl, by constructor <;> simp [he, armRegs]⟩
  | _ => cases h; exact .inl ⟨_, _, rfl, by constructor <;> simp [he]⟩

/-- A step that is no reset leaves the configuration, takes its event from the coming ones, and writes registers as tabled. -/
theorem step_writes {s t : State} (h : step s = .next t) (hr : s.nextEvent.isRst = false) :
    ∃ (r : Regs s.cfg) (a : Option Response), t = { s with regs := r, response := a, inputs := s.inputs.tail } ∧
      s.regs.WrittenAsTabled s.nextEvent r := by
  rcases step_next_cases h with ⟨draw, he, -⟩ | ⟨he, rfl⟩ | ⟨m, he, rfl⟩ | ⟨w, i, he, hd, hx⟩ | ⟨w, j, he, hd, rfl⟩
  · rw [he] at hr; cases hr
  · exact ⟨_, _, rfl, by constructor <;> simp [he, tickRegs]⟩
  · exact ⟨_, _, rfl, by constructor <;> simp [he, flagRegs]⟩
  · rcases exec_next_cases (he ▸ Event.command_of_instr hd) hx with ⟨r, v, rfl, hw⟩ | ⟨-, rfl⟩
    · exact ⟨r, _, rfl, hw⟩
    · exact ⟨s.regs, _, rfl, s.regs.writtenAsTabled_refl _⟩
  · exact ⟨s.regs, _, rfl, s.regs.writtenAsTabled_refl _⟩

/-- Settles O54: `step_writes`, register by register. -/
theorem registersAreWrittenOnlyAsTabled : Obligations.RegistersAreWrittenOnlyAsTabled := by
  intro s t h hr
  obtain ⟨r, a, rfl, hw⟩ := step_writes h hr
  exact ⟨r, rfl, hw.counter, hw.divsel, hw.iflag, hw.imask, hw.deadline, hw.onMask, hw.dimMask, hw.blinkMask, hw.cursor,
    hw.frame, hw.out, hw.dir⟩

/-- Settles O53: `divsel` is written by `CONFIGURE` alone, and only with a legal code. -/
theorem reservedDivisorIsNeverWritten : Obligations.ReservedDivisorIsNeverWritten := by
  intro s t hr h
  obtain ⟨r, a, rfl, hw⟩ := step_writes h hr
  rcases hw.divsel with hkept | ⟨d, hc⟩
  · exact .inl hkept
  · obtain ⟨w, hev, hdec⟩ := Event.command_eq_some_iff.mp hc
    rw [step_eq_runEvent, hev, runEvent_cmd_of_instr hdec] at h
    by_cases hl : s.afterFetch.cfg.DivselLegal d
    · rw [exec_configure_of_legal hl] at h
      cases h; exact .inr hl
    · rw [exec_configure_of_reserved hl] at h
      cases h; exact .inl rfl

/-! ### The response -/

theorem State.outputs_of_no_response {s : State} (h : s.response = none) : s.outputs.rspValid = false := by
  simp only [State.outputs, h]

theorem State.outputs_of_response {s : State} {a : Response} (h : s.response = some a) :
    s.outputs.rspValid = true ∧ s.outputs.rsp = a.rsp ∧ s.outputs.status = a.status.code := by
  simp only [State.outputs, h, and_self]

/-- The channel shows a response exactly when one stands. -/
theorem State.rspValid_iff (s : State) : s.outputs.rspValid = true ↔ ∃ a, s.response = some a := by
  cases h : s.response with
  | none => simp [State.outputs_of_no_response h]
  | some a => simp [State.outputs_of_response h]

/-- What stands on the response channel after a step: after a command word an answer, which if it is a fault is all that changed;
after any other event nothing. -/
theorem step_response {s t : State} (h : step s = .next t) :
    (∃ w a, s.nextEvent = .cmd w ∧ t.response = some a ∧ (a.status ≠ .ok → t = raise s.afterFetch a.status)) ∨
    (∀ w, s.nextEvent ≠ .cmd w) ∧ t.response = none := by
  rcases step_next_cases h with ⟨draw, he, rfl⟩ | ⟨he, rfl⟩ | ⟨m, he, rfl⟩ | ⟨w, i, he, hd, hx⟩ | ⟨w, j, he, hd, rfl⟩
  · exact .inr ⟨by simp [he], rfl⟩
  · exact .inr ⟨by simp [he], rfl⟩
  · exact .inr ⟨by simp [he], rfl⟩
  · rcases exec_next_cases (Event.command_of_instr hd) hx with ⟨r, v, rfl, -⟩ | ⟨-, rfl⟩
    · exact .inl ⟨w, _, he, rfl, fun hne => absurd rfl hne⟩
    · exact .inl ⟨w, _, he, rfl, fun _ => rfl⟩
  · exact .inl ⟨w, _, he, rfl, fun _ => rfl⟩

/-- Settles O51, from the two cases of `step_response`. -/
theorem responseExistsOnlyDuringACommand : Obligations.ResponseExistsOnlyDuringACommand := by
  intro s t h
  have hiff : (∃ w, s.nextEvent = .cmd w) ↔ ∃ a, t.response = some a := by
    rcases step_response h with ⟨w, a, he, ha, -⟩ | ⟨he, ha⟩
    · exact ⟨fun _ => ⟨a, ha⟩, fun _ => ⟨w, he⟩⟩
    · exact ⟨fun ⟨w, hw⟩ => absurd hw (he w), fun ⟨a, h'⟩ => by rw [ha] at h'; cases h'⟩
  refine ⟨t.rspValid_iff.trans hiff.symm, hiff, fun a ha => ?_⟩
  obtain ⟨-, hrsp, hstatus⟩ := State.outputs_of_response ha
  refine ⟨hrsp, hstatus, fun hne => ?_⟩
  rcases step_response h with ⟨w, b, -, hb, hfault⟩ | ⟨-, hnone⟩
  · obtain rfl : a = b := Option.some.inj (ha.symm.trans hb)
    exact hfault hne
  · rw [hnone] at ha; cases ha

end Sys2Proof.Machine

namespace Sys2Proof.Machine

/-! ### What a step does to the cursor, the frame and the lines -/

section ScanRegisters
variable {cfg : Config}

/-- The registers that place and show the scan are the same: cursor, frame, `out`, `dir`. -/
structure Regs.SameScan (r r' : Regs cfg) : Prop where
  cursor : r'.cursor = r.cursor
  frame : r'.frame = r.frame
  out : r'.out = r.out
  dir : r'.dir = r.dir

/-- By the table only `INIT`, `STEP`, `POLL` and `SHUTDOWN` write the registers of the scan. -/
theorem Regs.WrittenAsTabled.sameScan {e : Event} {r r' : Regs cfg} (h : r.WrittenAsTabled e r')
    (he : e.command ∉ [some .init, some .step, some .poll, some .shutdown]) : r.SameScan r' := by
  simp only [List.mem_cons, List.not_mem_nil, or_false, not_or] at he
  obtain ⟨hinit, hstep, hpoll, hshutdown⟩ := he
  constructor
  · simpa [hinit, hstep, hpoll] using h.cursor
  · simpa [hinit, hstep, hpoll] using h.frame
  · simpa [hinit, hstep, hpoll, hshutdown] using h.out
  · simpa [hinit, hshutdown] using h.dir

end ScanRegisters

/-- What the next step of `s`, if it is no reset and leaves the registers `r`, does to the registers of the scan: `INIT` sets them,
`SHUTDOWN` releases the lines, a performed `STEP` (of `STEP` or of a firing `POLL`) is one scan step, and all else keeps them. -/
inductive ScanEffect (s : State) (r : Regs s.cfg) : Prop where
  | init (hc : s.nextEvent.command = some .init) (hr : r = initRegs s.regs)
  | shutdown (hc : s.nextEvent.command = some .shutdown) (hr : r = shutdownRegs s.regs)
  | stepped (ht : s.takesStep = true) (r₀ : Regs s.cfg) (hs : scanStep s.regs = some r₀) (hk : r₀.SameScan r)
  | kept (ht : s.takesStep = false) (hk : s.regs.SameScan r)

theorem State.takesStep_of_step {s : State} (h : s.nextEvent.command = some .step) : s.takesStep = true := by
  simp [State.takesStep, h]

theorem State.takesStep_of_poll {s : State} (h : s.nextEvent.command = some .poll) :
    s.takesStep = reached s.regs.counter s.regs.deadline := by
  simp [State.takesStep, h]

theorem State.takesStep_of_other {s : State} (hs : s.nextEvent.command ≠ some .step)
    (hp : s.nextEvent.command ≠ some .poll) : s.takesStep = false := by
  simp [State.takesStep, hs, hp]

/-- A step that is no reset has one of the effects of `ScanEffect`: named for the four commands that write these registers, and by
the table of `step_writes` for everything else. -/
theorem step_scanEffect {s t : State} (h : step s = .next t) (hr : s.nextEvent.isRst = false) :
    ∃ (r : Regs s.cfg) (a : Option Response), t = { s with regs := r, response := a, inputs := s.inputs.tail } ∧
      ScanEffect s r := by
  have runs : ∀ {i}, s.nextEvent.command = some i → exec i s.afterFetch = .next t := fun hc => by
    obtain ⟨w, hev, hdec⟩ := Event.command_eq_some_iff.mp hc
    rw [← h, step_eq_runEvent, hev, runEvent_cmd_of_instr hdec]
  by_cases hinit : s.nextEvent.command = some .init
  · cases runs hinit; exact ⟨_, _, rfl, .init hinit rfl⟩
  by_cases hshutdown : s.nextEvent.command = some .shutdown
  · cases runs hshutdown; exact ⟨_, _, rfl, .shutdown hshutdown rfl⟩
  by_cases hstep : s.nextEvent.command = some .step
  · obtain ⟨r, hs, rfl⟩ := exec_step_next (runs hstep)
    exact ⟨r, _, rfl, .stepped (State.takesStep_of_step hstep) r hs ⟨rfl, rfl, rfl, rfl⟩⟩
  by_cases hpoll : s.nextEvent.command = some .poll
  · rcases exec_poll_next (runs hpoll) with ⟨hfire, r, hs, rfl⟩ | ⟨hnot, rfl⟩
    · exact ⟨_, _, rfl, .stepped ((State.takesStep_of_poll hpoll).trans hfire) r hs ⟨rfl, rfl, rfl, rfl⟩⟩
    · exact ⟨_, _, rfl, .kept ((State.takesStep_of_poll hpoll).trans hnot) ⟨rfl, rfl, rfl, rfl⟩⟩
  obtain ⟨r, a, rfl, hw⟩ := step_writes h hr
  exact ⟨r, a, rfl, .kept (State.takesStep_of_other hstep hpoll) (hw.sameScan (by simp [hinit, hstep, hpoll, hshutdown]))⟩

/-! ### The invariant: the cursor in range, the lines legal -/

section LegalLines
variable {cfg : Config}

theorem initRegs_outIsAPattern (r : Regs cfg) : (initRegs r).OutIsAPattern := .inl rfl

theorem shutdownRegs_outIsAPattern (r : Regs cfg) : (shutdownRegs r).OutIsAPattern := .inl rfl

/-- A scan step writes `IDLE` or the pattern of the entry at the cursor (41_scan_engine.md R123). -/
theorem scanStep_outIsAPattern {r r' : Regs cfg} (h : scanStep r = some r') : r'.OutIsAPattern := by
  obtain ⟨e, he, rfl⟩ := scanStep_eq_some_iff.mp h
  cases hl : litNow r with
  | false => exact .inl rfl
  | true => exact .inr ⟨e, List.mem_of_getElem? he, rfl⟩

theorem scanStep_dir {r r' : Regs cfg} (h : scanStep r = some r') : r'.dir = r.dir := by
  obtain ⟨e, -, rfl⟩ := scanStep_eq_some_iff.mp h
  rfl

theorem Regs.SameScan.outIsAPattern {r r' : Regs cfg} (h : r.SameScan r') (ho : r.OutIsAPattern) : r'.OutIsAPattern := by
  rw [Regs.OutIsAPattern, h.out]; exact ho

theorem Regs.SameScan.linesLegal {r r' : Regs cfg} (h : r.SameScan r') (hl : r.LinesLegal) : r'.LinesLegal := by
  rw [Regs.LinesLegal, Regs.OutIsAPattern, h.dir, h.out]; exact hl

/-- A scan step drives no other lines, and what it writes is a pattern. -/
theorem scanStep_linesLegal {r r' : Regs cfg} (h : scanStep r = some r') (hl : r.LinesLegal) : r'.LinesLegal := by
  rcases hl with hz | ⟨hm, -⟩
  · exact .inl ((scanStep_dir h).trans hz)
  · exact .inr ⟨(scanStep_dir h).trans hm, scanStep_outIsAPattern h⟩

theorem scanStep_cursor_lt {r r' : Regs cfg} (h : scanStep r = some r') : r'.cursor.toNat < cfg.ledCount := by
  rw [(scanStep_position h).1]
  exact Nat.mod_lt _ cfg.ledCount_bounds.1

theorem zero_cursor_lt : (0 : BitVec cfg.cursorW).toNat < cfg.ledCount := by
  simpa using Nat.lt_of_lt_of_le Nat.zero_lt_one cfg.ledCount_bounds.1

theorem State.afterReset_inv (cfg : Config) (draw : ResetDraw) (inputs : List Event) :
    (State.afterReset cfg draw inputs).Inv :=
  ⟨zero_cursor_lt, .inl rfl⟩

end LegalLines

/-- With the invariant before, each effect on the scan keeps it. -/
theorem ScanEffect.inv {s : State} {r : Regs s.cfg} (h : ScanEffect s r) (hi : s.Inv) :
    r.cursor.toNat < s.cfg.ledCount ∧ r.LinesLegal := by
  obtain ⟨hcur, hlines⟩ := hi
  cases h with
  | init _ hr => subst hr; exact ⟨zero_cursor_lt, .inr ⟨rfl, initRegs_outIsAPattern _⟩⟩
  | shutdown _ hr => subst hr; exact ⟨hcur, .inl rfl⟩
  | stepped _ r₀ hs hk => exact ⟨hk.cursor ▸ scanStep_cursor_lt hs, hk.linesLegal (scanStep_linesLegal hs hlines)⟩
  | kept _ hk => exact ⟨hk.cursor ▸ hcur, hk.linesLegal hlines⟩

/-- Settles O48: a reset establishes the invariant, and every other step has one of the effects of `ScanEffect`. -/
theorem stepKeepsInvariant : Obligations.StepKeepsInvariant := by
  intro s t hi h
  cases hr : s.nextEvent.isRst with
  | false =>
    obtain ⟨r, a, rfl, he⟩ := step_scanEffect h hr
    exact he.inv hi
  | true =>
    rcases step_next_cases h with ⟨draw, -, rfl⟩ | ⟨he, -⟩ | ⟨m, he, -⟩ | ⟨w, i, he, -⟩ | ⟨w, j, he, -⟩
    · exact State.afterReset_inv _ _ _
    all_goals rw [he] at hr; cases hr

/-- Settles O47: after a reset the cursor is 0 and nothing is driven. -/
theorem resetMeetsInvariant : Obligations.ResetMeetsInvariant :=
  ⟨State.afterReset_inv _ _ _, State.afterReset_inv⟩

/-- Settles O50: `INIT` and `SHUTDOWN` write `IDLE`, a scan step writes a pattern, and nothing else writes `out`. -/
theorem outStaysAPattern : Obligations.OutStaysAPattern := by
  refine ⟨fun s t h => ?_, fun s t ho hr h => ?_⟩
  · cases h; exact initRegs_outIsAPattern _
  · obtain ⟨r, a, rfl, he⟩ := step_scanEffect h hr
    cases he with
    | init _ hr => subst hr; exact initRegs_outIsAPattern _
    | shutdown _ hr => subst hr; exact shutdownRegs_outIsAPattern _
    | stepped _ r₀ hs hk => exact hk.outIsAPattern (scanStep_outIsAPattern hs)
    | kept _ hk => exact hk.outIsAPattern ho

/-! ### `INIT` and `RST` -/

/-- A line is driven to its bit of `out` where `dir` is 1, and `Z` elsewhere (10_state.md R34). -/
theorem Regs.line_of_driven {cfg : Config} {r : Regs cfg} {i : Nat} (h : r.dir.getLsbD i = true) :
    r.line i = if r.out.getLsbD i then .high else .low := by
  rw [Regs.line, if_pos h]

theorem Regs.line_of_not_driven {cfg : Config} {r : Regs cfg} {i : Nat} (h : ¬r.dir.getLsbD i = true) : r.line i = .z := by
  rw [Regs.line, if_neg h]

/-- Settles O32: `INIT` drives exactly the matrix lines, and `out` is `IDLE`. -/
theorem initDrivesTheIdlePattern : Obligations.InitDrivesTheIdlePattern := by
  intro s
  refine ⟨initRegs s.regs, rfl, fun i => ⟨fun hpin => ?_, fun hpin => ?_⟩⟩
  · exact Regs.line_of_driven ((getLsbD_matrixLines i).mpr hpin)
  · exact Regs.line_of_not_driven (mt (getLsbD_matrixLines i).mp hpin)

/-- Every combination of values of the four unspecified registers is drawn by some reset (10_state.md R42). -/
theorem Regs.exists_draw (cfg : Config) (c d : BitVec cfg.counterW) (v : DivSel) (f : BitVec cfg.ifW) :
    ∃ draw : ResetDraw, Regs.afterReset cfg draw =
      { counter := c, divsel := v, iflag := f, imask := 0, deadline := d, onMask := 0, dimMask := 0, blinkMask := 0,
        cursor := 0, frame := 0, out := 0, dir := 0 } := by
  refine ⟨⟨c.setWidth 32, v, f.setWidth 32, d.setWidth 32⟩, ?_⟩
  simp [Regs.afterReset, BitVec.setWidth_setWidth_of_le _ cfg.counterW_bounds.2,
    BitVec.setWidth_setWidth_of_le _ cfg.ifW_bounds.2]

/-- Settles O9: the event is `Regs.afterReset`, which reaches every value of the four unspecified registers. -/
theorem resetEventSetsEveryRegister : Obligations.ResetEventSetsEveryRegister := by
  refine fun s => ⟨fun draw => ⟨_, _, _, _, rfl⟩, fun c d v f => ?_⟩
  obtain ⟨draw, hdraw⟩ := Regs.exists_draw s.cfg c d v f
  exact ⟨draw, by rw [step_push, runEvent, ← hdraw]⟩

end Sys2Proof.Machine

namespace Sys2Proof.Machine

/-! ### The Scan Engine reads its own registers only -/

section ScanNoninterference
variable {cfg : Config} {r₁ r₂ : Regs cfg}

theorem Regs.AgreeOnScan.setOnMask (h : r₁.AgreeOnScan r₂) {v₁ v₂ : Word} (hv : v₁ = v₂) :
    (r₁.setOnMask v₁).AgreeOnScan (r₂.setOnMask v₂) := { h with onMask := hv }

theorem Regs.AgreeOnScan.setDimMask (h : r₁.AgreeOnScan r₂) {v₁ v₂ : Word} (hv : v₁ = v₂) :
    (r₁.setDimMask v₁).AgreeOnScan (r₂.setDimMask v₂) := { h with dimMask := hv }

theorem Regs.AgreeOnScan.setBlinkMask (h : r₁.AgreeOnScan r₂) {v₁ v₂ : Word} (hv : v₁ = v₂) :
    (r₁.setBlinkMask v₁).AgreeOnScan (r₂.setBlinkMask v₂) := { h with blinkMask := hv }

theorem Regs.AgreeOnScan.shutdownRegs (h : r₁.AgreeOnScan r₂) : (shutdownRegs r₁).AgreeOnScan (shutdownRegs r₂) :=
  { h with out := rfl, dir := rfl }

/-- `INIT` sets every register of the Scan Engine. -/
theorem initRegs_agreeOnScan (r₁ r₂ : Regs cfg) : (initRegs r₁).AgreeOnScan (initRegs r₂) :=
  ⟨rfl, rfl, rfl, rfl, rfl, rfl, rfl⟩

theorem Regs.AgreeOnScan.litNow_eq (h : r₁.AgreeOnScan r₂) : litNow r₁ = litNow r₂ := by
  rw [litNow, litNow, h.onMask, h.dimMask, h.blinkMask, h.cursor, h.frame]

/-- The decision, the pattern and the advance of a scan step are functions of the Scan Engine's registers. -/
theorem Regs.AgreeOnScan.scanStep (h : r₁.AgreeOnScan r₂) {r₁' : Regs cfg} (hs : scanStep r₁ = some r₁') :
    ∃ r₂', Machine.scanStep r₂ = some r₂' ∧ r₁'.AgreeOnScan r₂' := by
  obtain ⟨e, he, rfl⟩ := scanStep_eq_some_iff.mp hs
  rw [h.cursor] at he
  refine ⟨_, scanStep_of_entry he, ?_⟩
  exact { h with
    cursor := congrArg (nextCursor cfg) h.cursor
    frame := by dsimp only; rw [h.cursor, h.frame]
    out := by dsimp only; rw [h.litNow_eq] }

end ScanNoninterference

/-- Settles O58, command by command: the masks, `INIT`, `STEP` and `SHUTDOWN` keep the agreement, and the other commands write no
register of the Scan Engine. -/
theorem scanEngineDependsOnItsOwnRegistersOnly : Obligations.ScanEngineDependsOnItsOwnRegistersOnly := by
  intro cfg r₁ r₂ a₁ a₂ q₁ q₂ i hpoll h hcur
  cases i with
  | poll => exact absurd rfl hpoll
  | step =>
    obtain ⟨r₁', hs₁⟩ := exists_scanStep hcur
    obtain ⟨r₂', hs₂, h'⟩ := h.scanStep hs₁
    exact ⟨_, _, _, _, exec_step_of_scanStep hs₁, exec_step_of_scanStep hs₂, h'⟩
  | configure d =>
    by_cases hd : cfg.DivselLegal d
    · exact ⟨_, _, _, _, exec_configure_of_legal hd, exec_configure_of_legal hd, { h with }⟩
    · exact ⟨_, _, _, _, exec_configure_of_reserved hd, exec_configure_of_reserved hd, h⟩
  | init => exact ⟨_, _, _, _, rfl, rfl, initRegs_agreeOnScan r₁ r₂⟩
  | shutdown => exact ⟨_, _, _, _, rfl, rfl, h.shutdownRegs⟩
  | wron m => exact ⟨_, _, _, _, rfl, rfl, h.setOnMask rfl⟩
  | seton m => exact ⟨_, _, _, _, rfl, rfl, h.setOnMask (congrArg (maskSet · m) h.onMask)⟩
  | clron m => exact ⟨_, _, _, _, rfl, rfl, h.setOnMask (congrArg (maskClear · m) h.onMask)⟩
  | wrdim m => exact ⟨_, _, _, _, rfl, rfl, h.setDimMask rfl⟩
  | setdim m => exact ⟨_, _, _, _, rfl, rfl, h.setDimMask (congrArg (maskSet · m) h.dimMask)⟩
  | clrdim m => exact ⟨_, _, _, _, rfl, rfl, h.setDimMask (congrArg (maskClear · m) h.dimMask)⟩
  | wrblink m => exact ⟨_, _, _, _, rfl, rfl, h.setBlinkMask rfl⟩
  | setblink m => exact ⟨_, _, _, _, rfl, rfl, h.setBlinkMask (congrArg (maskSet · m) h.blinkMask)⟩
  | clrblink m => exact ⟨_, _, _, _, rfl, rfl, h.setBlinkMask (congrArg (maskClear · m) h.blinkMask)⟩
  | _ => exact ⟨_, _, _, _, rfl, rfl, { h with }⟩

/-! ### The sequencing law -/

section Position
variable {cfg : Config}

/-- `r'` is `n` places on from `r` in the scan: the cursor counts modulo `LED_COUNT`, the frame counts the wraps of the cursor
modulo 2^FRAME_W (10_state.md R39). -/
structure Regs.Advanced (n : Nat) (r r' : Regs cfg) : Prop where
  cursor : r'.cursor.toNat = (r.cursor.toNat + n) % cfg.ledCount
  frame : r'.frame.toNat = (r.frame.toNat + (r.cursor.toNat + n) / cfg.ledCount) % 2 ^ cfg.frameW

theorem Regs.advanced_zero {r : Regs cfg} (h : r.cursor.toNat < cfg.ledCount) : r.Advanced 0 r := by
  constructor
  · rw [Nat.add_zero, Nat.mod_eq_of_lt h]
  · rw [Nat.add_zero, Nat.div_eq_of_lt h, Nat.add_zero, Nat.mod_eq_of_lt r.frame.isLt]

theorem scanStep_advanced {r r' : Regs cfg} (h : scanStep r = some r') : r.Advanced 1 r' :=
  ⟨(scanStep_position h).1, (scanStep_position h).2⟩

theorem Regs.Advanced.trans {m n : Nat} {r r' r'' : Regs cfg} (h : r.Advanced m r') (h' : r'.Advanced n r'') :
    r.Advanced (m + n) r'' := by
  have carry : (r.cursor.toNat + m) / cfg.ledCount + ((r.cursor.toNat + m) % cfg.ledCount + n) / cfg.ledCount =
      (r.cursor.toNat + (m + n)) / cfg.ledCount := by
    rw [← Nat.mul_add_div cfg.ledCount_bounds.1, ← Nat.add_assoc, Nat.div_add_mod, Nat.add_assoc]
  constructor
  · rw [h'.cursor, h.cursor, Nat.mod_add_mod, Nat.add_assoc]
  · rw [h'.frame, h.frame, h.cursor, Nat.mod_add_mod, Nat.add_assoc, carry]

/-- The position depends on cursor and frame alone. -/
theorem Regs.Advanced.congr {n : Nat} {r r' r'' : Regs cfg} (h : r.Advanced n r') (hc : r''.cursor = r'.cursor)
    (hf : r''.frame = r'.frame) : r.Advanced n r'' :=
  ⟨hc ▸ h.cursor, hf ▸ h.frame⟩

theorem Regs.Advanced.cursor_lt {n : Nat} {r r' : Regs cfg} (h : r.Advanced n r') : r'.cursor.toNat < cfg.ledCount :=
  h.cursor ▸ Nat.mod_lt _ cfg.ledCount_bounds.1

end Position

/-- With the cursor in range a step that is neither `INIT` nor a reset completes, and moves one place on if it performs a `STEP`,
else none. -/
theorem step_advanced {s : State} (hc : s.CursorInRange) (he : s.nextEvent.startsScan = false) :
    ∃ (r : Regs s.cfg) (a : Option Response), step s = .next { s with regs := r, response := a, inputs := s.inputs.tail } ∧
      s.regs.Advanced (if s.takesStep then 1 else 0) r := by
  obtain ⟨hr, hinit⟩ : s.nextEvent.isRst = false ∧ s.nextEvent.command ≠ some .init := by
    simpa [Event.startsScan] using he
  obtain ⟨t, ht⟩ : ∃ t, step s = .next t := by
    rw [step_eq_runEvent]; exact runEvent_completes _ hc
  obtain ⟨r, a, rfl, heff⟩ := step_scanEffect ht hr
  refine ⟨r, a, ht, ?_⟩
  cases heff with
  | init hci => exact absurd hci hinit
  | shutdown hcs hrs =>
    subst hrs
    rw [State.takesStep_of_other (by simp [hcs]) (by simp [hcs])]
    exact (Regs.advanced_zero hc).congr rfl rfl
  | stepped hts r₀ hs hk => rw [hts]; exact (scanStep_advanced hs).congr hk.cursor hk.frame
  | kept hts hk => rw [hts]; exact (Regs.advanced_zero hc).congr hk.cursor hk.frame

/-- Over any events other than `INIT` and resets the scan moves as many places on as `STEP`s are performed. -/
theorem runSteps_advanced (es : List Event) {s : State} (hc : s.CursorInRange) (hes : ∀ e ∈ es, e.startsScan = false) :
    ∃ (r : Regs s.cfg) (a : Option Response),
      runSteps es.length { s with inputs := es ++ s.inputs } = .next { s with regs := r, response := a } ∧
      s.regs.Advanced (stepsTaken es.length { s with inputs := es ++ s.inputs }) r := by
  induction es generalizing s with
  | nil => exact ⟨s.regs, s.response, rfl, Regs.advanced_zero hc⟩
  | cons e es ih =>
    obtain ⟨he, hrest⟩ := List.forall_mem_cons.mp hes
    obtain ⟨r, a, hstep, hadv⟩ := step_advanced (s := { s with inputs := e :: es ++ s.inputs }) hc he
    obtain ⟨r', a', hrun, hadv'⟩ := ih (s := { s with regs := r, response := a }) hadv.cursor_lt hrest
    refine ⟨r', a', (runSteps_succ_of_next hstep).trans hrun, ?_⟩
    rw [List.length_cons, stepsTaken_succ_of_next hstep]
    exact hadv.trans hadv'

/-- Of `n` `STEP` commands in a row each is performed. -/
theorem stepsTaken_replicate_step (n : Nat) {s : State} (hc : s.CursorInRange) :
    stepsTaken n { s with inputs := List.replicate n (.cmd (encode .step)) ++ s.inputs } = n := by
  have hdec : decode (encode .step) = .instr .step := by decide
  induction n generalizing s with
  | zero => rfl
  | succ n ih =>
    obtain ⟨r, hs⟩ := exists_scanStep hc
    have hstep : step { s with inputs := List.replicate (n + 1) (.cmd (encode .step)) ++ s.inputs } =
        .next { s with regs := r, response := some ⟨0, .ok⟩, inputs := List.replicate n (.cmd (encode .step)) ++ s.inputs } :=
      (runEvent_cmd_of_instr hdec _).trans (exec_step_of_scanStep hs)
    have htakes : State.takesStep { s with inputs := List.replicate (n + 1) (.cmd (encode .step)) ++ s.inputs } = true :=
      State.takesStep_of_step (Event.command_of_instr hdec)
    rw [stepsTaken_succ_of_next hstep, ih (s := { s with regs := r, response := _ }) (scanStep_cursor_lt hs), htakes,
      if_pos rfl, Nat.add_comm]

/-- `INIT` and every reset put cursor and frame at 0. -/
theorem runEvent_startsScan {e : Event} (he : e.startsScan = true) (s : State) :
    ∃ t, runEvent e s = .next t ∧ t.cfg = s.cfg ∧ t.regs.cursor = 0 ∧ t.regs.frame = 0 := by
  rcases Bool.or_eq_true_iff.mp he with hrst | hinit
  · cases e with
    | rst draw => exact ⟨_, rfl, rfl, rfl, rfl⟩
    | _ => cases hrst
  · obtain ⟨w, rfl, hdec⟩ := Event.command_eq_some_iff.mp (beq_iff_eq.mp hinit)
    exact ⟨_, runEvent_cmd_of_instr hdec s, rfl, rfl, rfl⟩

/-- Settles O26: `runSteps_advanced` from the position 0, by induction on the events. -/
theorem sequencingLaw : Obligations.SequencingLaw := by
  refine ⟨fun s e he => runEvent_startsScan he s, fun s es hcur hframe hes => ?_, fun s n => stepsTaken_replicate_step n⟩
  obtain ⟨r, a, hrun, hadv⟩ := runSteps_advanced es (s := s) (by rw [State.CursorInRange, hcur]; exact zero_cursor_lt) hes
  refine ⟨_, hrun, rfl, rfl, ?_, ?_⟩
  · simpa [hcur] using hadv.cursor
  · simpa [hcur, hframe] using hadv.frame

end Sys2Proof.Machine

/-! ## Proofs: the address spaces, atomicity and ordering (20_memory.md)

The configuration space and the port map first; then which mask bits a `STEP` reads, which commands may be repeated, and the counter
against the other events. -/

namespace Sys2Proof.Machine

/-! ### The configuration space and the port map -/

/-- Settles O52: whatever event a step takes, it leaves other registers and another response only. -/
theorem configurationNeverChanges : Obligations.ConfigurationNeverChanges := by
  intro s t h
  rw [step_eq_runEvent] at h
  obtain ⟨r, a, rfl⟩ := runEvent_next_shape h
  rfl

/-- Settles O31: quotient and remainder of the pin by `PORT_W` put it back together. -/
theorem pinIsABitOfItsPort : Obligations.PinIsABitOfItsPort := by
  intro cfg r i hi
  have hport : i / cfg.portW < cfg.portCount := Nat.div_lt_of_lt_mul (Nat.mul_comm _ _ ▸ hi)
  have hbit : i % cfg.portW < cfg.portW := Nat.mod_lt i cfg.portW_pos
  refine ⟨hport, ?_⟩
  rw [Regs.port, getLsbD_portSlice _ _ _ hbit, Nat.div_add_mod]

/-! ### The mask bits a `STEP` reads -/

section MaskBits
variable {cfg : Config} {r r' : Regs cfg} {on dim blink : Word}

/-- Of each mask a scan step reads the bit at the cursor alone: masks that agree there make it leave the same but for themselves. -/
theorem scanStep_of_masks_agree (hon : on.getLsbD r.cursor.toNat = r.onMask.getLsbD r.cursor.toNat)
    (hdim : dim.getLsbD r.cursor.toNat = r.dimMask.getLsbD r.cursor.toNat)
    (hblink : blink.getLsbD r.cursor.toNat = r.blinkMask.getLsbD r.cursor.toNat) (h : scanStep r = some r') :
    scanStep { r with onMask := on, dimMask := dim, blinkMask := blink } =
      some { r' with onMask := on, dimMask := dim, blinkMask := blink } := by
  obtain ⟨e, he, rfl⟩ := scanStep_eq_some_iff.mp h
  have hlit : litNow { r with onMask := on, dimMask := dim, blinkMask := blink } = litNow r :=
    lit_congr r.frame.toNat hon hdim hblink
  exact scanStep_eq_some_iff.mpr ⟨e, he, by rw [hlit]⟩

end MaskBits

/-- Settles O30: `scanStep_of_masks_agree` at the scan step that a cursor in range has. -/
theorem stepReadsOneBitOfEachMask : Obligations.StepReadsOneBitOfEachMask := by
  intro s on dim blink hc hon hdim hblink
  obtain ⟨r, hr⟩ := exists_scanStep hc
  exact ⟨r, exec_step_of_scanStep hr, exec_step_of_scanStep (scanStep_of_masks_agree hon hdim hblink hr)⟩

/-! ### Repeating a command -/

theorem maskSet_maskSet (old m : Word) : maskSet (maskSet old m) m = maskSet old m := by
  rw [maskSet, maskSet, BitVec.or_assoc, BitVec.or_self]

theorem maskClear_maskClear (old m : Word) : maskClear (maskClear old m) m = maskClear old m := by
  rw [maskClear, maskClear, BitVec.and_assoc, BitVec.and_self]

theorem flagsCleared_flagsCleared {cfg : Config} (f : BitVec cfg.ifW) (m : Word) :
    flagsCleared (flagsCleared f m) m = flagsCleared f m := by
  rw [flagsCleared, flagsCleared, BitVec.and_assoc, BitVec.and_self]

theorem next_reply_congr {s : State} {r r' : Regs s.cfg} {v : Word} (h : r = r') :
    (Host.Outcome.next (reply s r v) : Result) = .next (reply s r' v) := by
  rw [h]

/-- Settles O55, command by command: what sets or clears bits does so once and for all; the other commands write values that do not
depend on the registers they write, or nothing. -/
theorem repeatingACommandChangesNothing : Obligations.RepeatingACommandChangesNothing := by
  intro i s t hstep hpoll h
  cases i with
  | step => exact absurd rfl hstep
  | poll => exact absurd rfl hpoll
  | configure d =>
    by_cases hd : s.cfg.DivselLegal d
    · rw [exec_configure_of_legal hd] at h
      cases h; exact exec_configure_of_legal hd
    · rw [exec_configure_of_reserved hd] at h
      cases h; exact exec_configure_of_reserved hd
  | clrif m => cases h; exact next_reply_congr (congrArg s.regs.setIflag (flagsCleared_flagsCleared _ m))
  | seton m => cases h; exact next_reply_congr (congrArg s.regs.setOnMask (maskSet_maskSet _ m))
  | setdim m => cases h; exact next_reply_congr (congrArg s.regs.setDimMask (maskSet_maskSet _ m))
  | setblink m => cases h; exact next_reply_congr (congrArg s.regs.setBlinkMask (maskSet_maskSet _ m))
  | clron m => cases h; exact next_reply_congr (congrArg s.regs.setOnMask (maskClear_maskClear _ m))
  | clrdim m => cases h; exact next_reply_congr (congrArg s.regs.setDimMask (maskClear_maskClear _ m))
  | clrblink m => cases h; exact next_reply_congr (congrArg s.regs.setBlinkMask (maskClear_maskClear _ m))
  | _ => cases h; rfl

/-! ### The counter against the other events -/

theorem Event.keepsTimeBase_iff {e : Event} :
    e.keepsTimeBase = true ↔ e.isRst = false ∧ ∀ d, e.command ≠ some (.configure d) := by
  rw [Event.keepsTimeBase, Bool.and_eq_true, Bool.not_eq_true']
  refine and_congr_right fun _ => ?_
  split
  case h_1 d hd => simp [hd]
  case h_2 hne => simpa using hne

theorem ticksIn_cons (e : Event) (es : List Event) : ticksIn (e :: es) = (if e = .tick then 1 else 0) + ticksIn es := by
  rw [ticksIn, ticksIn, List.count_cons, Nat.add_comm]
  simp only [beq_iff_eq]

theorem ScanEffect.cursor_lt {s : State} {r : Regs s.cfg} (h : ScanEffect s r) (hc : s.CursorInRange) :
    r.cursor.toNat < s.cfg.ledCount := by
  cases h with
  | init _ hr => subst hr; exact zero_cursor_lt
  | shutdown _ hr => subst hr; exact hc
  | stepped _ r₀ hs hk => exact hk.cursor ▸ scanStep_cursor_lt hs
  | kept _ hk => exact hk.cursor ▸ hc

/-- A step that keeps the time base adds 1 to the counter if it is a tick, else nothing (20_memory.md R60). -/
theorem step_counter_toNat {s t : State} (h : step s = .next t) (he : s.nextEvent.keepsTimeBase = true) :
    t.regs.counter.toNat =
      (s.regs.counter.toNat + if s.nextEvent = .tick then 1 else 0) % 2 ^ s.cfg.counterW := by
  obtain ⟨hrst, hconf⟩ := Event.keepsTimeBase_iff.mp he
  by_cases htick : s.nextEvent = .tick
  · rw [step_eq_runEvent, htick] at h
    cases h
    rw [if_pos htick]
    exact tickRegs_counter_toNat s.regs
  · obtain ⟨r, a, rfl, hw⟩ := step_writes h hrst
    have hkept : r.counter = s.regs.counter := by simpa [htick, hconf] using hw.counter
    rw [if_neg htick, Nat.add_zero, Nat.mod_eq_of_lt s.regs.counter.isLt]
    exact congrArg BitVec.toNat hkept

/-- With the cursor in range a step that keeps the time base completes, keeps the cursor in range and counts its tick. -/
theorem step_counts {s : State} (hc : s.CursorInRange) (he : s.nextEvent.keepsTimeBase = true) :
    ∃ (r : Regs s.cfg) (a : Option Response), step s = .next { s with regs := r, response := a, inputs := s.inputs.tail } ∧
      r.cursor.toNat < s.cfg.ledCount ∧
      r.counter.toNat = (s.regs.counter.toNat + if s.nextEvent = .tick then 1 else 0) % 2 ^ s.cfg.counterW := by
  obtain ⟨t, ht⟩ : ∃ t, step s = .next t := by
    rw [step_eq_runEvent]; exact runEvent_completes _ hc
  have hcount := step_counter_toNat ht he
  obtain ⟨r, a, rfl, heff⟩ := step_scanEffect ht (Event.keepsTimeBase_iff.mp he).1
  exact ⟨r, a, ht, heff.cursor_lt hc, hcount⟩

/-- Over any events that keep the time base the counter counts the ticks. -/
theorem runSteps_counts (es : List Event) {s : State} (hc : s.CursorInRange) (hes : ∀ e ∈ es, e.keepsTimeBase = true) :
    ∃ (r : Regs s.cfg) (a : Option Response),
      runSteps es.length { s with inputs := es ++ s.inputs } = .next { s with regs := r, response := a } ∧
      r.counter.toNat = (s.regs.counter.toNat + ticksIn es) % 2 ^ s.cfg.counterW := by
  induction es generalizing s with
  | nil => exact ⟨s.regs, s.response, rfl, (Nat.mod_eq_of_lt s.regs.counter.isLt).symm⟩
  | cons e es ih =>
    obtain ⟨he, hrest⟩ := List.forall_mem_cons.mp hes
    obtain ⟨r, a, hstep, hcur, hcount⟩ := step_counts (s := { s with inputs := e :: es ++ s.inputs }) hc he
    obtain ⟨r', a', hrun, hcount'⟩ := ih (s := { s with regs := r, response := a }) hcur hrest
    refine ⟨r', a', (runSteps_succ_of_next hstep).trans hrun, ?_⟩
    calc r'.counter.toNat
      _ = (r.counter.toNat + ticksIn es) % 2 ^ s.cfg.counterW := hcount'
      _ = ((s.regs.counter.toNat + if e = .tick then 1 else 0) % 2 ^ s.cfg.counterW + ticksIn es) % 2 ^ s.cfg.counterW :=
        congrArg (fun n => (n + ticksIn es) % 2 ^ s.cfg.counterW) hcount
      _ = (s.regs.counter.toNat + ticksIn (e :: es)) % 2 ^ s.cfg.counterW := by
        rw [Nat.mod_add_mod, Nat.add_assoc, ticksIn_cons]

/-- Settles O17: `runSteps_counts`, by induction on the events. -/
theorem counterCountsTicks : Obligations.CounterCountsTicks := by
  intro s es hc hes
  obtain ⟨r, a, hrun, hcount⟩ := runSteps_counts es hc hes
  exact ⟨_, hrun, rfl, rfl, hcount⟩

end Sys2Proof.Machine

/-! ## Proofs: the encoding of commands (30_encoding.md)

The opcode table is read once, row by row: `onePerRow` lists a command of each row, the decoder answers at the code of a row
(`decodeFields_opCode_of_argFits`) and nowhere else (`mem_opCodes_of_decodeFields`), and a word matches a row exactly when it has the
row's code and an `arg` that fits its format (`joinFields_matches_iff`). -/

namespace Sys2Proof

/-! ### The operand of a command and its `arg` -/

/-- The legality column of 30_encoding.md R71: which `arg` a word of the format may carry. -/
def Format.ArgFits : Format → Word → Prop
  | .z, arg => arg = 0
  | .d, arg => divselPad arg = 0
  | .m, _ => True

/-- The command of the same row with the operand that `arg` holds (30_encoding.md R73). -/
def Instr.withArg : Instr → Word → Instr
  | .configure _, arg => .configure (divselOfArg arg)
  | .clrif _, arg => .clrif arg
  | .wrim _, arg => .wrim arg
  | .wron _, arg => .wron arg
  | .wrdim _, arg => .wrdim arg
  | .wrblink _, arg => .wrblink arg
  | .seton _, arg => .seton arg
  | .setdim _, arg => .setdim arg
  | .setblink _, arg => .setblink arg
  | .clron _, arg => .clron arg
  | .clrdim _, arg => .clrdim arg
  | .clrblink _, arg => .clrblink arg
  | i, _ => i

@[simp] theorem Instr.opCode_withArg (i : Instr) (arg : Word) : (i.withArg arg).opCode = i.opCode := by
  cases i <;> rfl

/-- An `arg` that fits is the one that the command it makes is encoded with. -/
theorem Instr.arg_withArg {i : Instr} {arg : Word} (h : i.format.ArgFits arg) : (i.withArg arg).arg = arg := by
  cases i with
  | configure d => exact ((divselPad_eq_zero_iff arg).mp h).symm
  | value | rdif | rdim | init | step | shutdown | arm | poll => exact h.symm
  | _ => rfl

@[simp] theorem Instr.withArg_arg (i : Instr) : i.withArg i.arg = i := by
  cases i with
  | configure d => exact congrArg Instr.configure (divselOfArg_setWidth d)
  | _ => rfl

theorem Instr.argFits_arg (i : Instr) : i.format.ArgFits i.arg := by
  cases i with
  | configure d => exact divselPad_setWidth d
  | value | rdif | rdim | init | step | shutdown | arm | poll => rfl
  | _ => trivial

/-- The word of a row's code with an `arg` that fits is an encoding. -/
theorem encode_withArg {i : Instr} {arg : Word} (h : i.format.ArgFits arg) :
    encode (i.withArg arg) = joinFields i.opCode arg := by
  rw [encode, Instr.opCode_withArg, Instr.arg_withArg h]

/-! ### The decoder at the code of a row -/

theorem decodeFields_opCode_of_argFits {i : Instr} {arg : Word} (h : i.format.ArgFits arg) :
    decodeFields i.opCode arg = .instr (i.withArg arg) := by
  cases i with
  | configure d => exact decodeD_eq_instr.mpr ⟨h, rfl⟩
  | value | rdif | rdim | init | step | shutdown | arm | poll => exact decodeZ_eq_instr.mpr ⟨h, rfl⟩
  | _ => rfl

theorem argFits_of_decodeFields_opCode {i j : Instr} {arg : Word} (h : decodeFields i.opCode arg = .instr j) :
    i.format.ArgFits arg := by
  cases i with
  | configure d => exact (decodeD_eq_instr.mp h).1
  | value | rdif | rdim | init | step | shutdown | arm | poll => exact (decodeZ_eq_instr.mp h).1
  | _ => trivial

/-- A command of each row of the opcode table, in the table's order (30_encoding.md R74). -/
def onePerRow : List Instr :=
  [.configure 0, .value, .rdif, .clrif 0, .rdim, .wrim 0, .init, .step, .shutdown, .arm, .poll, .wron 0, .wrdim 0, .wrblink 0,
    .seton 0, .setdim 0, .setblink 0, .clron 0, .clrdim 0, .clrblink 0]

/-- The decoder knows only the codes of the table. -/
theorem mem_opCodes_of_decodeFields {op : OpCode} {arg : Word} (h : decodeFields op arg ≠ .rejected .unknownOp) :
    op ∈ onePerRow.map Instr.opCode := by
  have hinj : Function.Injective (BitVec.toNat (w := 8)) := fun _ _ => BitVec.eq_of_toNat_eq
  rw [← List.mem_map_of_injective hinj]
  unfold decodeFields at h
  split at h
  case h_21 => exact absurd rfl h
  all_goals
    rename_i hop
    rw [hop]
    decide

/-- The decoder's answers, by the two fields of the word. -/
theorem decodeFields_eq_instr_iff {op : OpCode} {arg : Word} {i : Instr} :
    decodeFields op arg = .instr i ↔ op = i.opCode ∧ arg = i.arg := by
  constructor
  · intro h
    obtain ⟨j, -, rfl⟩ := List.mem_map.mp (mem_opCodes_of_decodeFields (by rw [h]; exact Decoded.noConfusion))
    have hfits := argFits_of_decodeFields_opCode h
    rw [decodeFields_opCode_of_argFits hfits] at h
    obtain rfl : j.withArg arg = i := Decoded.instr.inj h
    exact ⟨(j.opCode_withArg arg).symm, (Instr.arg_withArg hfits).symm⟩
  · rintro ⟨rfl, rfl⟩
    rw [decodeFields_opCode_of_argFits i.argFits_arg, Instr.withArg_arg]

/-- Decoding and encoding are inverse: the word is the join of its fields, and the fields are those of the command. -/
theorem decode_eq_instr_iff {w : CommandWord} {i : Instr} : decode w = .instr i ↔ w = encode i := by
  rw [decode, decodeFields_eq_instr_iff, encode, ← joinFields_inj, joinFields_fields]

/-- Settles O2: `decode_eq_instr_iff`. -/
theorem decodeInvertsEncode : Obligations.DecodeInvertsEncode := fun _ _ => decode_eq_instr_iff

/-! ### The rows of the opcode table -/

open Laws (TableRow.mask TableRow.joinFields_and_m TableRow.joinFields_and_d)

/-- The row `(match, mask)` of a command in the opcode table (30_encoding.md R74). -/
def Instr.row (i : Instr) : CommandWord × CommandWord := (joinFields i.opCode 0, TableRow.mask i.format)

theorem opcodeRows_eq : Machine.opcodeRows = onePerRow.map Instr.row := by decide

/-- Every command is one of the listed ones but for its operand. -/
theorem Instr.withArg_zero_mem_onePerRow (i : Instr) : i.withArg 0 ∈ onePerRow := by
  cases i <;> simp [Instr.withArg, onePerRow, divselOfArg]

/-- The row of a command does not depend on its operand. -/
theorem Instr.row_withArg (i : Instr) (arg : Word) : (i.withArg arg).row = i.row := by
  cases i <;> rfl

theorem Instr.row_mem_opcodeRows (i : Instr) : i.row ∈ Machine.opcodeRows := by
  rw [opcodeRows_eq, ← i.row_withArg 0]
  exact List.mem_map_of_mem i.withArg_zero_mem_onePerRow

/-- A word agrees with `{op', 0}` on the bits that a format fixes exactly when its code is `op'` and its `arg` fits. -/
theorem joinFields_matches_iff {op op' : OpCode} {arg : Word} (f : Format) :
    joinFields op arg &&& TableRow.mask f = joinFields op' 0 ↔ op = op' ∧ f.ArgFits arg := by
  cases f with
  | z =>
    rw [show TableRow.mask .z = BitVec.allOnes 40 by decide, BitVec.and_allOnes, joinFields_inj]
    rfl
  | d =>
    constructor
    · intro h
      rw [show TableRow.mask .d = joinFields 0xFF 0xFFFFFFF8 by decide, joinFields_and, joinFields_inj] at h
      obtain ⟨hop, harg⟩ := h
      have hpad := congrArg divselPad harg
      rw [divselPad, BitVec.extractLsb'_and] at hpad
      exact ⟨BitVec.and_allOnes.symm.trans hop, BitVec.and_allOnes.symm.trans hpad⟩
    · rintro ⟨rfl, hpad⟩
      rw [(divselPad_eq_zero_iff arg).mp hpad]
      exact TableRow.joinFields_and_d _ _
  | m =>
    rw [TableRow.joinFields_and_m, joinFields_inj]
    exact and_congr_right fun _ => iff_of_true rfl trivial

/-- A word matches the row of a command exactly when it has its code and an `arg` that fits its format. -/
theorem Instr.matches_row_iff {i : Instr} {w : CommandWord} :
    w &&& i.row.2 = i.row.1 ↔ opField w = i.opCode ∧ i.format.ArgFits (argField w) := by
  rw [← joinFields_matches_iff, joinFields_fields]
  rfl

theorem exists_row_of_mem {row : CommandWord × CommandWord} (h : row ∈ Machine.opcodeRows) : ∃ i : Instr, i.row = row := by
  rw [opcodeRows_eq] at h
  obtain ⟨i, -, hi⟩ := List.mem_map.mp h
  exact ⟨i, hi⟩

theorem encode_matches_row (i : Instr) : encode i &&& i.row.2 = i.row.1 := by
  rw [Instr.matches_row_iff, encode, opField_joinFields, argField_joinFields]
  exact ⟨rfl, i.argFits_arg⟩

/-- The words that match a row are the encodings. -/
theorem matches_a_row_iff {w : CommandWord} :
    (∃ row ∈ Machine.opcodeRows, w &&& row.2 = row.1) ↔ ∃ i, w = encode i := by
  constructor
  · rintro ⟨row, hmem, hw⟩
    obtain ⟨i, rfl⟩ := exists_row_of_mem hmem
    obtain ⟨hop, hfits⟩ := Instr.matches_row_iff.mp hw
    exact ⟨i.withArg (argField w), by rw [encode_withArg hfits, ← hop, joinFields_fields]⟩
  · rintro ⟨i, rfl⟩
    exact ⟨i.row, i.row_mem_opcodeRows, encode_matches_row i⟩

/-- A word matches at most one row: every row fixes all of `op`, and the codes of the table are distinct (30_encoding.md R77). -/
theorem countP_matches_le_one (w : CommandWord) :
    Machine.opcodeRows.countP (fun row => w &&& row.2 == row.1) ≤ 1 := by
  have hdistinct : (Machine.opcodeRows.map fun row => opField row.1).Nodup := by decide
  have hcode : ∀ row ∈ Machine.opcodeRows, (w &&& row.2 == row.1) = true → (opField row.1 == opField w) = true := by
    intro row hmem hw
    obtain ⟨i, rfl⟩ := exists_row_of_mem hmem
    obtain ⟨hop, -⟩ := Instr.matches_row_iff.mp (beq_iff_eq.mp hw)
    rw [hop, Instr.row, opField_joinFields, beq_self_eq_true]
  calc Machine.opcodeRows.countP (fun row => w &&& row.2 == row.1)
    _ ≤ Machine.opcodeRows.countP (fun row => opField row.1 == opField w) := List.countP_mono_left hcode
    _ = (Machine.opcodeRows.map fun row => opField row.1).count (opField w) := by
      rw [List.count, List.countP_map]; rfl
    _ ≤ 1 := List.nodup_iff_count_le_one.mp hdistinct _

theorem countP_matches_eq_one {w : CommandWord} (h : ∃ row ∈ Machine.opcodeRows, w &&& row.2 = row.1) :
    Machine.opcodeRows.countP (fun row => w &&& row.2 == row.1) = 1 := by
  obtain ⟨row, hmem, hw⟩ := h
  exact le_antisymm (countP_matches_le_one w) (List.countP_pos_iff.mpr ⟨row, hmem, beq_iff_eq.mpr hw⟩)

end Sys2Proof

namespace Sys2Proof.Machine

/-! ### What a step does with a word -/

theorem step_push_encode (s : State) (i : Instr) : step (s.push (.cmd (encode i))) = exec i s := by
  rw [step_push, runEvent_cmd_of_instr (decode_eq_instr_iff.mpr rfl)]

theorem step_push_of_rejected {w : CommandWord} (h : ∀ i, w ≠ encode i) (s : State) :
    step (s.push (.cmd w)) = .next (raise s .illegalCommand) := by
  cases hd : decode w with
  | instr i => exact absurd (decode_eq_instr_iff.mp hd) (h i)
  | rejected r => rw [step_push, runEvent_cmd_of_rejected hd]

/-- Settles O3: the words that match a row are the encodings, and a word matches no two rows. -/
theorem wordsOutsideTheTableAreIllegal : Obligations.WordsOutsideTheTableAreIllegal := by
  intro s w
  constructor
  · intro hnone
    refine step_push_of_rejected (fun i hi => ?_) s
    obtain ⟨row, hmem, hw⟩ := matches_a_row_iff.mpr ⟨i, hi⟩
    exact hnone row hmem hw
  · intro hsome
    obtain ⟨i, rfl⟩ := matches_a_row_iff.mp hsome
    exact ⟨⟨i, rfl, step_push_encode s i⟩, countP_matches_eq_one hsome⟩

/-- Settles O1: each word is decoded. -/
theorem specWordsDecode : Obligations.SpecWordsDecode := by
  unfold Obligations.SpecWordsDecode
  decide

/-- Settles O4: the word's code is `{4, low}`, and the opcode map is read at each of the sixteen values of `low`. -/
theorem maskGroupSubfields : Obligations.MaskGroupSubfields := by
  intro low m
  have hfields : decode ((0x4#4 ++ low) ++ m) = decodeFields (0x4#4 ++ low) m := decode_joinFields _ _
  rw [hfields]
  obtain ⟨n, hn, rfl⟩ : ∃ n < 16, low = BitVec.ofNat 4 n := ⟨low.toNat, low.isLt, by simp⟩
  interval_cases n <;> rfl

/-- Settles O5: the step is the event taken from the channel, and that event is the decoded command. -/
theorem stepRunsDecodedCommand : Obligations.StepRunsDecodedCommand := by
  intro s w rest i hin hd
  rw [step_of_inputs hin, runEvent_cmd_of_instr hd]

end Sys2Proof.Machine

/-! ## Proofs: the Tick Source (40_tick_source.md)

First the command words of one operation code, said once for a row of any format; then the events, the reads, the writes of the
flags and the mask, `CONFIGURE`, and the build-time conversion. -/

namespace Sys2Proof.Machine

/-! ### The words of one operation code -/

/-- A word of a row's code whose `arg` fits its format executes the command of the row with the operand that `arg` holds. -/
theorem step_push_of_argFits {i : Instr} {arg : Word} (h : i.format.ArgFits arg) (s : State) :
    step (s.push (.cmd (joinFields i.opCode arg))) = exec (i.withArg arg) s := by
  rw [← encode_withArg h, step_push_encode]

/-- A word of a row's code whose `arg` does not fit its format takes `IllegalCommand`. -/
theorem step_push_of_not_argFits {i : Instr} {arg : Word} (h : ¬i.format.ArgFits arg) (s : State) :
    step (s.push (.cmd (joinFields i.opCode arg))) = .next (raise s .illegalCommand) := by
  refine step_push_of_rejected (fun j hj => h ?_) s
  have hdec : decode (joinFields i.opCode arg) = .instr j := decode_eq_instr_iff.mpr hj
  rw [decode_joinFields] at hdec
  exact argFits_of_decodeFields_opCode hdec

/-- A command of format `Z` has one word, the one with `arg = 0`. -/
theorem isZCommand_of_format {i : Instr} (hf : i.format = .z) : IsZCommand i.opCode i := by
  have hfits (arg : Word) : i.format.ArgFits arg ↔ arg = 0 := by rw [hf]; rfl
  have hwith : i.withArg 0 = i := by rw [← (hfits i.arg).mp i.argFits_arg, Instr.withArg_arg]
  intro s arg
  split
  case isTrue h0 =>
    subst h0
    have hexec := step_push_of_argFits ((hfits 0).mpr rfl) s
    rw [hwith] at hexec
    exact hexec
  case isFalse h0 => exact step_push_of_not_argFits (h0 ∘ (hfits arg).mp) s

/-- A command of format `M` takes every `arg` as its operand. -/
theorem isMCommand_of_format {mk : Word → Instr} (hf : (mk 0).format = .m) (hmk : ∀ m, (mk 0).withArg m = mk m) :
    IsMCommand (mk 0).opCode mk := by
  intro s arg
  have hfits : (mk 0).format.ArgFits arg := by rw [hf]; trivial
  have hexec := step_push_of_argFits hfits s
  rw [hmk] at hexec
  exact hexec

/-! ### The two events -/

/-- Settles O6: `TICK` writes the counter, by `tickRegs_counter_toNat`. -/
theorem tickIncrementsCounterSilently : Obligations.TickIncrementsCounterSilently :=
  fun s => ⟨(tickRegs s.regs).counter, tickRegs_counter_toNat s.regs, tick_enabled s⟩

/-- Settles O7: a step with no event to come is a tick. -/
theorem counterRunsWhenNothingComes : Obligations.CounterRunsWhenNothingComes :=
  fun _ hin => step_of_no_inputs hin

/-- Settles O8: the event writes `flagsSet`, whose bits `getLsbD_flagsSet` gives. -/
theorem flagEventSetsPendingFlags : Obligations.FlagEventSetsPendingFlags :=
  fun s m => ⟨flagsSet s.regs.iflag m, fun _ hk => getLsbD_flagsSet s.regs.iflag m hk, step_push s (.flag m)⟩

/-! ### The commands that read a register -/

/-- Settles O12: the counter has at most 32 bits, so its zero-extension is its value. -/
theorem valueReadsCounter : Obligations.ValueReadsCounter :=
  ⟨isZCommand_of_format (i := .value) rfl,
    fun s => ⟨zext32 s.regs.counter, toNat_zext32 _ s.cfg.counterW_bounds.2, rfl⟩⟩

/-- Settles O13: there are at most 32 flags, so their zero-extension is their value. -/
theorem rdifReadsFlags : Obligations.RdifReadsFlags :=
  ⟨isZCommand_of_format (i := .rdif) rfl, fun s => ⟨zext32 s.regs.iflag, toNat_zext32 _ s.cfg.ifW_bounds.2, rfl⟩⟩

/-- Settles O15: the interrupt mask is as wide as the flags. -/
theorem rdimReadsMask : Obligations.RdimReadsMask :=
  ⟨isZCommand_of_format (i := .rdim) rfl, fun s => ⟨zext32 s.regs.imask, toNat_zext32 _ s.cfg.ifW_bounds.2, rfl⟩⟩

/-! ### The commands that write the flags and the interrupt mask -/

/-- Settles O14: `CLRIF` writes `flagsCleared`, whose bits `getLsbD_flagsCleared` gives. -/
theorem clrifClearsSelectedFlags : Obligations.ClrifClearsSelectedFlags :=
  ⟨isMCommand_of_format (mk := .clrif) rfl fun _ => rfl,
    fun s m => ⟨flagsCleared s.regs.iflag m, fun _ hk => getLsbD_flagsCleared s.regs.iflag m hk, rfl⟩⟩

/-- After the mask is written `irq` is 1 exactly when a pending flag has its bit in the operand (10_state.md R36). -/
theorem irq_setImask_flagBits_iff {cfg : Config} (r : Regs cfg) (m : Word) :
    (r.setImask (flagBits cfg m)).irq = true ↔ ∃ k < cfg.ifW, r.iflag.getLsbD k = true ∧ m.getLsbD k = true := by
  rw [irq_eq_true_iff, Regs.setImask_iflag, Regs.setImask_imask]
  exact exists_congr fun k => and_congr_right fun hk => by rw [getLsbD_flagBits m hk]

/-- Settles O16: the register file that `WRIM` leaves, and `irq_setImask_flagBits_iff` of it. -/
theorem wrimSetsMaskAndIrqFollows : Obligations.WrimSetsMaskAndIrqFollows := by
  refine ⟨isMCommand_of_format (mk := .wrim) rfl fun _ => rfl, fun s m => ⟨s.regs.setImask (flagBits s.cfg m), rfl, ?_, ?_, rfl⟩⟩
  · exact fun k hk => getLsbD_flagBits m hk
  · exact irq_setImask_flagBits_iff s.regs m

/-! ### `CONFIGURE` -/

/-- The must-be-zero bits are those above the low three: the quotient of `arg` by 8. -/
theorem divselPad_eq_zero_iff_div (arg : Word) : divselPad arg = 0 ↔ arg.toNat / 8 = 0 := by
  have hpad : (divselPad arg).toNat = arg.toNat / 8 := by
    rw [divselPad, BitVec.extractLsb'_toNat, Nat.shiftRight_eq_div_pow]
    have := arg.isLt
    omega
  rw [← hpad, ← BitVec.toNat_inj]
  rfl

theorem divselOfArg_eq_setWidth (arg : Word) : divselOfArg arg = arg.setWidth 3 :=
  BitVec.setWidth_eq_extractLsb' (by omega) |>.symm

/-- The code is the remainder of `arg` by 8. -/
theorem divselOfArg_toNat (arg : Word) : (divselOfArg arg).toNat = arg.toNat % 8 := by
  rw [divselOfArg_eq_setWidth, BitVec.toNat_setWidth]

/-- What `CONFIGURE`'s words do, in the order of the checks (60_exceptions.md R186a): the must-be-zero bits, the code, the writes. -/
theorem step_push_configure (s : State) (arg : Word) :
    step (s.push (.cmd (joinFields 0x10 arg))) =
      if arg.toNat / 8 ≠ 0 then .next (raise s .illegalCommand)
      else if s.cfg.divisors.length ≤ arg.toNat % 8 then .next (raise s .reservedDivisor)
      else exec (.configure (arg.setWidth 3)) s := by
  have hfits : (Instr.configure 0).format.ArgFits arg ↔ arg.toNat / 8 = 0 := divselPad_eq_zero_iff_div arg
  by_cases hpad : arg.toNat / 8 = 0
  · have hexec : step (s.push (.cmd (joinFields 0x10 arg))) = exec (.configure (divselOfArg arg)) s :=
      step_push_of_argFits (hfits.mpr hpad) s
    rw [if_neg (not_not_intro hpad), hexec]
    by_cases hcode : s.cfg.divisors.length ≤ arg.toNat % 8
    · rw [if_pos hcode]
      exact exec_configure_of_reserved (by rw [Params.DivselLegal, divselOfArg_toNat]; omega)
    · rw [if_neg hcode, divselOfArg_eq_setWidth]
  · rw [if_pos hpad]
    exact step_push_of_not_argFits (i := .configure 0) (hpad ∘ hfits.mp) s

/-- Settles O11: `step_push_configure` for the words; a legal code is selected and counter and flags are zeroed. -/
theorem configureSelectsAndZeroes : Obligations.ConfigureSelectsAndZeroes :=
  ⟨step_push_configure, fun _ _ hlegal => exec_configure_of_legal hlegal⟩

/-! ### The build-time conversion -/

theorem trunc0_of_nonneg {q : ℚ} (h : 0 ≤ q) : trunc0 q = ⌊q⌋ := by
  rw [trunc0, Int.tdiv_eq_ediv_of_nonneg (Rat.num_nonneg.mpr h), Rat.floor_def']

theorem trunc0_neg (q : ℚ) : trunc0 (-q) = -trunc0 q := by
  rw [trunc0, trunc0, Rat.num_neg_eq_neg_num, Rat.den_neg_eq_den, Int.neg_tdiv]

/-- Truncation is odd, so below zero it is the floor mirrored, which is the ceiling. -/
theorem trunc0_of_nonpos {q : ℚ} (h : q ≤ 0) : trunc0 q = ⌈q⌉ := by
  rw [← neg_neg q, trunc0_neg, trunc0_of_nonneg (neg_nonneg.mpr h), Int.ceil_neg]

/-- Settles O18: the sign of the quotient decides between floor and ceiling. -/
theorem durationTruncatesTowardZero : Obligations.DurationTruncatesTowardZero := by
  intro fRef divisor duration _
  rw [durationToTicks]
  split
  case isTrue hnonneg => exact trunc0_of_nonneg hnonneg
  case isFalse hneg => exact trunc0_of_nonpos (le_of_not_ge hneg)

/-- Settles O19: within the bounds the conversion is a natural number, the one that the build takes. -/
theorem buildPeriodIsInRange : Obligations.BuildPeriodIsInRange := by
  intro p duration n
  rw [buildPeriod]
  cases hdiv : p.divisors[p.div0]? with
  | none => simp
  | some divisor =>
    simp only [Option.some.injEq, exists_eq_left']
    split
    case isTrue hrange => rw [Option.some.injEq]; omega
    case isFalse hout => simp only [reduceCtorEq, false_iff]; omega

end Sys2Proof.Machine

/-! ## Proofs: the Scan Engine (41_scan_engine.md)

First what one command writes: `INIT`, `SHUTDOWN`, `STEP`, and the pattern of the entry that a `STEP` services. Then a run of
`STEP`s. Last the illumination decision, row by row of its table, and how many frames of a window it lights. -/

namespace Sys2Proof.Machine

/-! ### `INIT` and `SHUTDOWN` -/

/-- Settles O20: the register file is `initRegs`, and its outputs are the pins that occur in `MAP` by `getLsbD_matrixLines`. -/
theorem initBringsUpTheMatrix : Obligations.InitBringsUpTheMatrix :=
  ⟨isZCommand_of_format (i := .init) rfl, fun s => ⟨matrixLines s.cfg, getLsbD_matrixLines, rfl⟩⟩

/-- Settles O22: the register file is `shutdownRegs`, which drives no line. -/
theorem shutdownReleasesTheLines : Obligations.ShutdownReleasesTheLines := by
  refine ⟨isZCommand_of_format (i := .shutdown) rfl, fun s => ⟨shutdownRegs s.regs, rfl, fun i => ?_, rfl⟩⟩
  exact Regs.line_of_not_driven (by simp [shutdownRegs])

/-! ### One `STEP` -/

/-- Settles O21: the scan step at the entry, with the bits of the decision, the pattern and the advance. -/
theorem stepDrivesOneSlot : Obligations.StepDrivesOneSlot := by
  refine ⟨isZCommand_of_format (i := .step) rfl, fun s e he => ?_⟩
  have hlit := lit_eq_true_iff s.regs.onMask s.regs.dimMask s.regs.blinkMask s.regs.cursor.toNat s.regs.frame.toNat
  have hpattern := getLsbD_pattern (List.mem_of_getElem? he) (litNow s.regs)
  have hexec := exec_step_of_scanStep (scanStep_of_entry he)
  exact ⟨_, _, _, litNow s.regs, hlit, hpattern, toNat_nextCursor s.regs.cursor, toNat_nextFrame _ s.regs.frame, hexec⟩

section Pattern
variable {cfg : Config} {e : PinPair}

theorem getLsbD_pattern_hi (he : e ∈ cfg.map) : (pattern cfg true e).getLsbD e.hi = true := by
  obtain ⟨-, -, -, hhi, -⟩ := cfg.entryOk he
  simp [getLsbD_pattern he, hhi]

theorem getLsbD_pattern_lo (he : e ∈ cfg.map) : (pattern cfg true e).getLsbD e.lo = false := by
  obtain ⟨-, -, -, -, hlo⟩ := cfg.entryOk he
  simp [getLsbD_pattern he, hlo]

/-- The pattern of a lit LED is `IDLE` but for the two pins of its entry (41_scan_engine.md R128). -/
theorem getLsbD_pattern_xor_idle (he : e ∈ cfg.map) (i : Nat) :
    (pattern cfg true e ^^^ cfg.idle).getLsbD i = true ↔ i = e.hi ∨ i = e.lo := by
  rw [BitVec.getLsbD_xor, getLsbD_pattern he]
  by_cases hpin : i = e.hi ∨ i = e.lo <;> simp [hpin]

end Pattern

/-- Settles O24: the decision chooses between `IDLE` and the pattern of the entry at the cursor. -/
theorem atMostOneLedIsDriven : Obligations.AtMostOneLedIsDriven := by
  intro s e he
  have hmem := List.mem_of_getElem? he
  refine ⟨_, exec_step_of_scanStep (scanStep_of_entry he), ?_⟩
  cases litNow s.regs with
  | false => exact .inl rfl
  | true => exact .inr ⟨getLsbD_pattern_hi hmem, getLsbD_pattern_lo hmem, getLsbD_pattern_xor_idle hmem⟩

/-! ### A run of `STEP`s -/

section StepsOnly
variable {cfg : Config}

/-- `r'` differs from `r` at most in the registers that a `STEP` writes: `out`, `cursor` and `frame` (41_scan_engine.md R121). -/
def Regs.OnlyScanned (r r' : Regs cfg) : Prop :=
  r' = { r with out := r'.out, cursor := r'.cursor, frame := r'.frame }

theorem Regs.onlyScanned_refl (r : Regs cfg) : r.OnlyScanned r := rfl

theorem Regs.OnlyScanned.trans {r r' r'' : Regs cfg} (h : r.OnlyScanned r') (h' : r'.OnlyScanned r'') : r.OnlyScanned r'' := by
  unfold Regs.OnlyScanned at h h' ⊢
  rw [h', h]

theorem scanStep_onlyScanned {r r' : Regs cfg} (h : scanStep r = some r') : r.OnlyScanned r' := by
  obtain ⟨e, -, rfl⟩ := scanStep_eq_some_iff.mp h
  rfl

/-- `LED_COUNT` places on, the cursor is where it was and has wrapped once. -/
theorem Regs.Advanced.sweep {r r' : Regs cfg} (h : r.Advanced cfg.ledCount r') (hc : r.cursor.toNat < cfg.ledCount) :
    r'.cursor = r.cursor ∧ r'.frame = r.frame + 1 := by
  constructor
  · exact BitVec.eq_of_toNat_eq (by rw [h.cursor, Nat.add_mod_right, Nat.mod_eq_of_lt hc])
  · refine BitVec.eq_of_toNat_eq ?_
    rw [h.frame, Nat.add_div_right _ cfg.ledCount_bounds.1, Nat.div_eq_of_lt hc]
    simp

end StepsOnly

/-- `n` `STEP` commands in a row complete, move the scan `n` places on and write nothing else; each answers 0 with status `OK`. -/
theorem runSteps_replicate_step (n : Nat) {s : State} (hc : s.CursorInRange) :
    ∃ r : Regs s.cfg,
      runSteps n { s with inputs := List.replicate n (.cmd (encode .step)) ++ s.inputs } =
        .next { s with regs := r, response := if n = 0 then s.response else some ⟨0, .ok⟩ } ∧
      s.regs.Advanced n r ∧ s.regs.OnlyScanned r := by
  induction n generalizing s with
  | zero => exact ⟨s.regs, rfl, Regs.advanced_zero hc, s.regs.onlyScanned_refl⟩
  | succ n ih =>
    obtain ⟨r, hs⟩ := exists_scanStep hc
    have hstep : step { s with inputs := List.replicate (n + 1) (.cmd (encode .step)) ++ s.inputs } =
        .next { s with regs := r, response := some ⟨0, .ok⟩, inputs := List.replicate n (.cmd (encode .step)) ++ s.inputs } :=
      (step_push_encode { s with inputs := List.replicate n (.cmd (encode .step)) ++ s.inputs } .step).trans
        (exec_step_of_scanStep hs)
    obtain ⟨r', hrun, hadv, honly⟩ := ih (s := { s with regs := r, response := some ⟨0, .ok⟩ }) (scanStep_cursor_lt hs)
    refine ⟨r', ?_, ?_, (scanStep_onlyScanned hs).trans honly⟩
    · rw [runSteps_succ_of_next hstep, hrun, ite_self, if_neg n.succ_ne_zero]
    · rw [Nat.add_comm]
      exact (scanStep_advanced hs).trans hadv

/-- Settles O25: `runSteps_replicate_step` at `LED_COUNT`, which is one wrap of the cursor. -/
theorem sweepLaw : Obligations.SweepLaw := by
  intro s hc
  obtain ⟨r, hrun, hadv, honly⟩ := runSteps_replicate_step s.cfg.ledCount hc
  obtain ⟨hcursor, hframe⟩ := hadv.sweep hc
  have hregs : r = { s.regs with out := r.out, frame := s.regs.frame + 1 } := by
    rw [Regs.OnlyScanned, hcursor, hframe] at honly
    exact honly
  refine ⟨r.out, ?_⟩
  rw [hrun, ← hregs, if_neg (Nat.ne_of_gt s.cfg.ledCount_bounds.1)]

/-! ### The illumination decision -/

section Lit
variable {on dim blink : Word} {c f : Nat}

theorem lit_of_off (hon : on.getLsbD c = false) : lit on dim blink c f = false := by
  simp [lit, maskBit, hon]

/-- An LED that is not dim-eligible is suppressed by the blink test alone. -/
theorem lit_iff_of_not_dim (hdim : dim.getLsbD c = false) :
    lit on dim blink c f = true ↔ on.getLsbD c = true ∧ ¬(f / 64 % 2 = 0 ∧ blink.getLsbD c = true) := by
  simp [lit_eq_true_iff, hdim]

theorem lit_of_steady (hon : on.getLsbD c = true) (hdim : dim.getLsbD c = false) (hblink : blink.getLsbD c = false) :
    lit on dim blink c f = true := by
  simp [lit_iff_of_not_dim hdim, hon, hblink]

theorem lit_iff_of_dimmed (hon : on.getLsbD c = true) (hdim : dim.getLsbD c = true) (hblink : blink.getLsbD c = false) :
    lit on dim blink c f = true ↔ f % 8 = 0 := by
  simp [lit_eq_true_iff, hon, hdim, hblink]

theorem lit_iff_of_blinking (hon : on.getLsbD c = true) (hdim : dim.getLsbD c = false) (hblink : blink.getLsbD c = true) :
    lit on dim blink c f = true ↔ f / 64 % 2 = 1 := by
  simp [lit_iff_of_not_dim hdim, hon, hblink]

/-- With both masks set both suppressions apply: decision D31 (41_scan_engine.md R132, log 15). -/
theorem lit_iff_of_dimmed_and_blinking (hon : on.getLsbD c = true) (hdim : dim.getLsbD c = true)
    (hblink : blink.getLsbD c = true) : lit on dim blink c f = true ↔ f % 8 = 0 ∧ f / 64 % 2 = 1 := by
  simp [lit_eq_true_iff, hon, hdim, hblink]

end Lit

/-- The blink test reads bit 6 of the frame (90_conflicts.md C3). -/
theorem testBit_six_iff (f : Nat) : f.testBit 6 = true ↔ f / 64 % 2 = 1 := by
  simp [Nat.testBit_eq_decide_div_mod_eq]

/-- Settles O23: the rows of the table, one lemma each. -/
theorem litTruthTable : Obligations.LitTruthTable := by
  intro on dim blink c f
  simp only [testBit_six_iff]
  exact ⟨lit_of_off, fun hon =>
    ⟨lit_of_steady hon, lit_iff_of_dimmed hon, lit_iff_of_blinking hon, lit_iff_of_dimmed_and_blinking hon⟩⟩

/-! ### How many frames of a window are lit -/

/-- Every window as long as the period counts alike. -/
theorem count_window_of_periodic {p : Nat → Prop} [DecidablePred p] {n : Nat} (hp : Function.Periodic p n) (f : Nat) :
    Nat.count (fun k => p (f + k)) n = Nat.count p n := by
  have hshift : Nat.count (fun k => p (n + k)) f = Nat.count p f := by
    simp only [Nat.add_comm n, hp _]
  have hsplit : Nat.count p f + Nat.count (fun k => p (f + k)) n = Nat.count p n + Nat.count (fun k => p (n + k)) f := by
    rw [← Nat.count_add, ← Nat.count_add, Nat.add_comm]
  omega

section Window
variable {cfg : Config} {on dim blink : Word} {c f : Nat}

/-- The decision does not see the frame wrap: it reads the frame modulo 128, which divides 2^FRAME_W (41_scan_engine.md R130,
R131). -/
theorem lit_frame_wrap (n : Nat) : lit on dim blink c (n % 2 ^ cfg.frameW) = lit on dim blink c n := by
  have h128 : n % 2 ^ cfg.frameW % 128 = n % 128 := Nat.mod_mod_of_dvd n cfg.dvd_two_pow_frameW
  have h8 : n % 2 ^ cfg.frameW % 8 = n % 8 := by omega
  have h64 : n % 2 ^ cfg.frameW / 64 % 2 = n / 64 % 2 := by omega
  rw [Bool.eq_iff_iff, lit_eq_true_iff, lit_eq_true_iff, h8, h64]

/-- An LED whose decision has period `n` in the frame is lit as often in `n` consecutive frames as in the first `n`, across the
wrap too. -/
theorem countP_lit_window {p : Nat → Prop} [DecidablePred p] {n : Nat} (hp : Function.Periodic p n)
    (hlit : ∀ f, lit on dim blink c f = true ↔ p f) :
    ((List.range n).countP fun k => lit on dim blink c ((f + k) % 2 ^ cfg.frameW)) = Nat.count p n := by
  have hdec (k : Nat) : lit on dim blink c ((f + k) % 2 ^ cfg.frameW) = decide (p (f + k)) := by
    rw [lit_frame_wrap, Bool.eq_iff_iff, hlit, decide_eq_true_iff]
  simp only [hdec]
  exact count_window_of_periodic hp f

end Window

/-- Settles O27: a dimmed LED is lit where `frame mod 8 = 0`; without the dim bit the decision reads `frame div 64` only. -/
theorem dimmingLaw : Obligations.DimmingLaw := by
  intro cfg on dim blink c f
  constructor
  · intro hon hdim hblink
    have hlit (n : Nat) : lit on dim blink c n = true ↔ n % 8 = 0 := lit_iff_of_dimmed hon hdim hblink
    refine ⟨?_, fun k => by rw [lit_frame_wrap, hlit]⟩
    rw [countP_lit_window (fun n => by simp) hlit]
    decide
  · intro hdim low hlow
    have hslow : (f / 8 * 8 + low) / 64 = f / 64 := by omega
    rw [Bool.eq_iff_iff, lit_iff_of_not_dim hdim, lit_iff_of_not_dim hdim, hslow]

/-- Settles O28: a blinking LED is lit in the upper half of every 128 frames. -/
theorem blinkLaw : Obligations.BlinkLaw := by
  intro cfg on dim blink c f hon hdim hblink
  have hlit (n : Nat) : lit on dim blink c n = true ↔ 64 ≤ n % 128 := by
    rw [lit_iff_of_blinking hon hdim hblink]
    omega
  refine ⟨?_, fun k => by rw [lit_frame_wrap, hlit]⟩
  rw [countP_lit_window (fun n => by simp) hlit]
  decide

/-- Settles O29: with both masks set the lit frames are every eighth of the upper half of 128. -/
theorem bothModulationsLaw : Obligations.BothModulationsLaw := by
  intro cfg on dim blink c f hon hdim hblink
  have hlit (n : Nat) : lit on dim blink c n = true ↔ n % 128 ∈ [64, 72, 80, 88, 96, 104, 112, 120] := by
    rw [lit_iff_of_dimmed_and_blinking hon hdim hblink]
    simp only [List.mem_cons, List.not_mem_nil, or_false]
    omega
  refine ⟨?_, fun k => by rw [lit_frame_wrap, hlit]⟩
  rw [countP_lit_window (fun n => by simp) hlit]
  decide

end Sys2Proof.Machine

/-! ## Proofs: the Deadline Comparator (42_deadline.md)

The comparison first (R140, R141, R150), then `ARM` and `POLL` on the registers and on the unbounded counts behind them, then one step
on a timeline (R145). The scheduling theorem, the catch-up of late polls and the two progress statements are runs of these steps. -/

namespace Sys2Proof.Machine

/-! ### The comparison -/

section Comparison
variable {n : Nat}

theorem sdiffW_self (a : BitVec n) : sdiffW a a = 0 := sub_self a

theorem neg_sdiffW (a b : BitVec n) : -sdiffW a b = sdiffW b a := neg_sub a b

theorem add_sdiffW (a b : BitVec n) : a + sdiffW b a = b := add_sub_cancel a b

/-- Settles O35: subtraction of bit vectors is that of a ring. -/
theorem sdiffLaws : Obligations.SdiffLaws := by
  intro n a b k
  refine ⟨sub_eq_zero, ?_, add_sub_add_right_eq_sub a b k⟩
  rw [← neg_sdiffW a b]
  exact add_neg_cancel (sdiffW a b)

/-- The reduced difference is the true difference, reduced. -/
theorem sdiffW_ofInt (now due : Int) :
    sdiffW (BitVec.ofInt n now) (BitVec.ofInt n due) = BitVec.ofInt n (now - due) := by
  refine sub_eq_of_eq_add ?_
  rw [← BitVec.ofInt_add, Int.sub_add_cancel]

/-- Reached means that the signed reading of the reduced difference is not negative (42_deadline.md R140). -/
theorem reached_iff_toInt (now deadline : BitVec n) : reached now deadline = true ↔ 0 ≤ (sdiffW now deadline).toInt := by
  rw [reached, Bool.not_eq_true', BitVec.msb_eq_toInt, decide_eq_false_iff_not, Int.not_lt]

/-- Settles O36: a true difference inside the window is its own signed reading. -/
theorem reachedIsRightInsideTheWindow : Obligations.ReachedIsRightInsideTheWindow := by
  intro n now due hn hlow hhigh
  have hread : (sdiffW (BitVec.ofInt n now) (BitVec.ofInt n due)).toInt = now - due := by
    rw [sdiffW_ofInt]
    exact BitVec.toInt_ofInt_eq_self hn hlow (Int.lt_of_le_sub_one hhigh)
  refine ⟨hread, ?_⟩
  rw [reached_iff_toInt, hread, Int.sub_nonneg]

/-- A deadline that the counter equals is reached (42_deadline.md R143, corner case (a)). -/
theorem reached_self (a : BitVec n) : reached a a = true := by
  rw [reached_iff, sdiffW_self]
  exact Nat.two_pow_pos _

/-- From a deadline that is not reached, the counter is at most half its range away. -/
theorem sdiffW_toNat_le_of_not_reached {now deadline : BitVec n} (h : ¬reached now deadline = true) :
    (sdiffW deadline now).toNat ≤ 2 ^ (n - 1) := by
  have hhalf : 2 ^ (n - 1) ≤ (sdiffW now deadline).toNat := Nat.le_of_not_lt (mt (reached_iff _ _).mpr h)
  have hrange : 2 ^ n ≤ 2 * 2 ^ (n - 1) := by
    rw [← Nat.pow_succ']
    exact Nat.pow_le_pow_right Nat.two_pos (by omega)
  calc (sdiffW deadline now).toNat
    _ = (2 ^ n - (sdiffW now deadline).toNat) % 2 ^ n := by rw [← neg_sdiffW, BitVec.toNat_neg]
    _ ≤ 2 ^ n - (sdiffW now deadline).toNat := Nat.mod_le _ _
    _ ≤ 2 ^ (n - 1) := by omega

end Comparison

/-! ### `ARM` and `POLL` on the registers -/

/-- A scan step writes neither the counter nor the deadline. -/
theorem scanStep_timeBase {cfg : Config} {r r' : Regs cfg} (h : scanStep r = some r') :
    r'.counter = r.counter ∧ r'.deadline = r.deadline := by
  obtain ⟨e, -, rfl⟩ := scanStep_eq_some_iff.mp h
  exact ⟨rfl, rfl⟩

/-- Settles O33: `ARM` writes `armRegs`, whose deadline `armRegs_deadline_toNat` gives. -/
theorem armSetsDeadlineOnePeriodAhead : Obligations.ArmSetsDeadlineOnePeriodAhead :=
  ⟨isZCommand_of_format (i := .arm) rfl, fun s => ⟨(armRegs s.regs).deadline, armRegs_deadline_toNat s.regs, rfl⟩⟩

/-- Settles O34: bit `W-1` of the difference decides, and the re-arm adds to the deadline that the scan step left alone. -/
theorem pollStepsAndRearmsAtTheDeadline : Obligations.PollStepsAndRearmsAtTheDeadline := by
  refine ⟨isZCommand_of_format (i := .poll) rfl, fun s => ⟨fun hnot => ?_, fun hfire hc => ?_⟩⟩
  · rw [← sdiffW_toNat] at hnot
    exact exec_poll_of_not_reached (mt (reached_iff _ _).mp (Nat.not_lt.mpr hnot))
  · rw [← sdiffW_toNat, ← reached_iff] at hfire
    obtain ⟨r, hr⟩ := exists_scanStep hc
    refine ⟨r, (rearmRegs r).deadline, exec_step_of_scanStep hr, ?_, exec_poll_of_reached hfire hr⟩
    rw [rearmRegs_deadline_toNat, (scanStep_timeBase hr).2]

/-! ### The unbounded counts -/

/-- Counter and deadline are the unbounded tick count `now` and deadline `due` modulo 2^W, and the lateness `now - due` is inside the
window of 42_deadline.md R141. -/
structure State.InWindow (s : State) (now due : Nat) : Prop where
  counter : s.regs.counter.toNat = now % 2 ^ s.cfg.counterW
  deadline : s.regs.deadline.toNat = due % 2 ^ s.cfg.counterW
  low : due ≤ now + 2 ^ (s.cfg.counterW - 1)
  high : now < due + 2 ^ (s.cfg.counterW - 1)

theorem bitVec_eq_ofInt {n k : Nat} {v : BitVec n} (h : v.toNat = k % 2 ^ n) : v = BitVec.ofInt n (k : Int) := by
  rw [BitVec.ofInt_natCast]
  exact BitVec.eq_of_toNat_eq (h.trans (BitVec.toNat_ofNat k n).symm)

/-- Inside the window the comparison of the registers is that of the unbounded counts. -/
theorem State.InWindow.reached_iff {s : State} {now due : Nat} (h : s.InWindow now due) :
    reached s.regs.counter s.regs.deadline = true ↔ due ≤ now := by
  have hW : 1 ≤ s.cfg.counterW := Nat.le_of_succ_le s.cfg.counterW_bounds.1
  have hlow : (due : Int) ≤ now + 2 ^ (s.cfg.counterW - 1) := by exact_mod_cast h.low
  have hhigh : (now : Int) < due + 2 ^ (s.cfg.counterW - 1) := by exact_mod_cast h.high
  rw [bitVec_eq_ofInt h.counter, bitVec_eq_ofInt h.deadline, ← Int.ofNat_le]
  exact (reachedIsRightInsideTheWindow _ now due hW (by omega) (by omega)).2

/-- The bounds of a timeline lie inside the window, since the period is at most half the counter's range. -/
theorem State.OnTimeline.inWindow {s : State} {G : Nat} {tl : Timeline} (h : s.OnTimeline G tl) : s.InWindow tl.now tl.due := by
  obtain ⟨hcounter, hdeadline, hearly, hlate, hgap, hbound⟩ := h
  have := s.cfg.period_bounds
  exact ⟨hcounter, hdeadline, by omega, by omega⟩

/-- What a `POLL` that completes inside the window leaves: the counter, the deadline moved on by one period if it is not later than
now, and the answer whether it is. -/
theorem exec_poll_inWindow {s t : State} {now due : Nat} (h : s.InWindow now due) (hx : exec .poll s = .next t) :
    ∃ r : Regs s.cfg, t = reply s r (if due ≤ now then 1 else 0) ∧ r.counter = s.regs.counter ∧
      r.deadline.toNat = (if due ≤ now then due + s.cfg.period else due) % 2 ^ s.cfg.counterW ∧
      (s.CursorInRange → s.regs.Advanced (if due ≤ now then 1 else 0) r) := by
  rcases exec_poll_next hx with ⟨hfire, r, hs, rfl⟩ | ⟨hnot, rfl⟩
  · have hdue : due ≤ now := h.reached_iff.mp hfire
    obtain ⟨hcounter, hdeadline⟩ := scanStep_timeBase hs
    simp only [if_pos hdue]
    refine ⟨_, rfl, hcounter, ?_, fun _ => (scanStep_advanced hs).congr rfl rfl⟩
    rw [rearmRegs_deadline_toNat, hdeadline, h.deadline, Nat.mod_add_mod]
  · have hdue : ¬due ≤ now := fun hle => Bool.eq_false_iff.mp hnot (h.reached_iff.mpr hle)
    simp only [if_neg hdue]
    exact ⟨_, rfl, rfl, h.deadline, Regs.advanced_zero⟩

/-! ### One step on a timeline -/

/-- `ARM` begins a new grid one period ahead of any tick count behind the counter. -/
theorem armRegs_onTimeline {s : State} {G now : Nat} (hG : G ≤ s.cfg.period) (hnow : s.regs.counter.toNat = now % 2 ^ s.cfg.counterW) :
    (reply s (armRegs s.regs) 0).OnTimeline G ⟨now, now + s.cfg.period, 0⟩ where
  counter := hnow
  deadline := by rw [armRegs_deadline_toNat, hnow, Nat.mod_add_mod]
  notEarly := Nat.le_refl _
  notLate := Nat.lt_add_of_pos_right s.cfg.period_bounds.1
  gap := Nat.zero_le G
  bound := hG

/-- On a timeline a `POLL` that completes leaves the machine on the timeline after it, and answers whether it fired. -/
theorem exec_poll_onTimeline {s t : State} {G : Nat} {tl : Timeline} (h : s.OnTimeline G tl) (hx : exec .poll s = .next t) :
    t.OnTimeline G ⟨tl.now, if tl.due ≤ tl.now then tl.due + s.cfg.period else tl.due, 0⟩ ∧
      t.response = some ⟨if tl.due ≤ tl.now then 1 else 0, .ok⟩ := by
  obtain ⟨r, rfl, hcounter, hdeadline, -⟩ := exec_poll_inWindow h.inWindow hx
  obtain ⟨hnow, -, hearly, hlate, hgap, hbound⟩ := h
  refine ⟨⟨(congrArg BitVec.toNat hcounter).trans hnow, hdeadline, ?_, ?_, Nat.zero_le G, hbound⟩, rfl⟩
  · dsimp only; split <;> omega
  · dsimp only; split <;> omega

/-- A step that is a tick, with room left in the poll gap, counts on the timeline. -/
theorem tickRegs_onTimeline {s : State} {G : Nat} {tl : Timeline} (h : s.OnTimeline G tl) (hgap : tl.sincePoll < G) :
    (silent s (tickRegs s.regs)).OnTimeline G ⟨tl.now + 1, tl.due, tl.sincePoll + 1⟩ := by
  obtain ⟨hcounter, hdeadline, hearly, hlate, -, hbound⟩ := h
  refine ⟨?_, hdeadline, ?_, ?_, hgap, hbound⟩
  · rw [tickRegs_counter_toNat, hcounter, Nat.mod_add_mod]
  · exact Nat.le_trans hearly (by dsimp only; omega)
  · dsimp only; omega

/-- A timeline constrains only counter and deadline. -/
theorem State.OnTimeline.congr {s : State} {G : Nat} {tl : Timeline} (h : s.OnTimeline G tl) {r : Regs s.cfg}
    (hc : r.counter = s.regs.counter) (hd : r.deadline = s.regs.deadline) (a : Option Response) (q : List Event) :
    (State.mk s.cfg r a q).OnTimeline G tl :=
  { h with
    counter := (congrArg BitVec.toNat hc).trans h.counter
    deadline := (congrArg BitVec.toNat hd).trans h.deadline }

/-- A step that is a command executes it. -/
theorem exec_of_step {s t : State} {i : Instr} (hc : s.nextEvent.command = some i) (h : step s = .next t) :
    exec i s.afterFetch = .next t := by
  obtain ⟨w, hev, hdec⟩ := Event.command_eq_some_iff.mp hc
  rw [← h, step_eq_runEvent, hev, runEvent_cmd_of_instr hdec]

theorem Timeline.after_of_arm (tl : Timeline) (period : Nat) {e : Event} (h : e.command = some .arm) :
    tl.after period e = { tl with due := tl.now + period, sincePoll := 0 } := by
  obtain ⟨w, rfl, -⟩ := Event.command_eq_some_iff.mp h
  exact tl.after_arm period h

theorem Timeline.after_of_poll (tl : Timeline) (period : Nat) {e : Event} (h : e.command = some .poll) :
    tl.after period e = { tl with due := if tl.due ≤ tl.now then tl.due + period else tl.due, sincePoll := 0 } := by
  obtain ⟨w, rfl, -⟩ := Event.command_eq_some_iff.mp h
  exact tl.after_poll period h

/-- The step lemma of the scheduler (42_deadline.md R145): by the event, `ARM`, `POLL`, a tick, or an event that writes neither
counter nor deadline. -/
theorem step_onTimeline {s t : State} {G : Nat} {tl : Timeline} (h : s.OnTimeline G tl)
    (he : s.nextEvent.keepsTimeBase = true) (hgap : s.nextEvent = .tick → tl.sincePoll < G) (hs : step s = .next t) :
    t.OnTimeline G (tl.after s.cfg.period s.nextEvent) ∧
      (s.nextEvent.command = some .poll → t.response = some ⟨if tl.due ≤ tl.now then 1 else 0, .ok⟩) := by
  have hfetch : s.afterFetch.OnTimeline G tl := h.congr rfl rfl _ _
  by_cases hpoll : s.nextEvent.command = some .poll
  · obtain ⟨hafter, hanswer⟩ := exec_poll_onTimeline hfetch (exec_of_step hpoll hs)
    rw [tl.after_of_poll _ hpoll]
    exact ⟨hafter, fun _ => hanswer⟩
  refine ⟨?_, fun hc => absurd hc hpoll⟩
  by_cases harm : s.nextEvent.command = some .arm
  · cases exec_of_step harm hs
    rw [tl.after_of_arm _ harm]
    exact armRegs_onTimeline (s := s.afterFetch) h.bound h.counter
  by_cases htick : s.nextEvent = .tick
  · rw [step_eq_runEvent, htick] at hs
    cases hs
    rw [htick, Timeline.after_tick]
    exact tickRegs_onTimeline hfetch (hgap htick)
  · obtain ⟨hrst, hconf⟩ := Event.keepsTimeBase_iff.mp he
    obtain ⟨r, a, rfl, hw⟩ := step_writes hs hrst
    rw [tl.after_of_other _ htick harm hpoll]
    exact h.congr (by simpa [htick, hconf] using hw.counter) (by simpa [harm, hpoll] using hw.deadline) _ _

/-- Settles O42: `ARM` establishes the timeline and `step_onTimeline` keeps it. -/
theorem stepKeepsTheTimeline : Obligations.StepKeepsTheTimeline :=
  ⟨fun s _ hG => ⟨_, rfl, armRegs_onTimeline hG (Nat.mod_eq_of_lt s.regs.counter.isLt).symm⟩,
    fun _ _ _ _ h he hgap hs => step_onTimeline h he hgap hs⟩

end Sys2Proof.Machine

namespace Sys2Proof.Machine

/-! ### Ticks, then a `POLL` -/

/-- Ticks in a row write the counter alone; each leaves no response. -/
theorem runSteps_replicate_tick (k : Nat) (s : State) (rest : List Event) :
    runSteps k { s with inputs := List.replicate k .tick ++ rest } =
      .next { s with
        regs := s.regs.setCounter (s.regs.counter + BitVec.ofNat s.cfg.counterW k)
        response := if k = 0 then s.response else none
        inputs := rest } := by
  induction k generalizing s with
  | zero => simp [runSteps_zero, Regs.setCounter]
  | succ k ih =>
    have hsum : s.regs.counter + 1 + BitVec.ofNat s.cfg.counterW k = s.regs.counter + BitVec.ofNat s.cfg.counterW (k + 1) := by
      rw [Nat.add_comm k 1, BitVec.ofNat_add, BitVec.add_assoc]
      rfl
    rw [List.replicate_succ, List.cons_append, runSteps_event rfl, ih (silent s (tickRegs s.regs)), if_neg k.succ_ne_zero,
      ite_self]
    exact congrArg (fun v => Host.Outcome.next { s with regs := s.regs.setCounter v, response := none, inputs := rest }) hsum

/-- A `POLL` at a deadline that is reached completes and answers 1. -/
theorem runSteps_poll_fires {s : State} (hc : s.CursorInRange) (hr : reached s.regs.counter s.regs.deadline = true)
    (rest : List Event) :
    ∃ t, runSteps 1 { s with inputs := .cmd (encode .poll) :: rest } = .next t ∧ t.response = some ⟨1, .ok⟩ := by
  obtain ⟨r, hs⟩ := exists_scanStep hc
  exact ⟨_, runSteps_cmd (decode_eq_instr_iff.mpr rfl) (exec_poll_of_reached (s := { s with inputs := rest }) hr hs), rfl⟩

/-- Some number of ticks, at most half the counter's range, brings the counter to a deadline that is reached. -/
theorem exists_ticks_reached {n : Nat} (now deadline : BitVec n) :
    ∃ k ≤ 2 ^ (n - 1), reached (now + BitVec.ofNat n k) deadline = true := by
  by_cases hr : reached now deadline = true
  · exact ⟨0, Nat.zero_le _, by simpa using hr⟩
  · refine ⟨(sdiffW deadline now).toNat, sdiffW_toNat_le_of_not_reached hr, ?_⟩
    rw [BitVec.ofNat_toNat, BitVec.setWidth_eq, add_sdiffW]
    exact reached_self deadline

/-- Settles O40: the ticks of `exists_ticks_reached`, and then the `POLL`. -/
theorem pollEventuallyFires : Obligations.PollEventuallyFires := by
  intro s hc
  obtain ⟨k, hk, hreached⟩ := exists_ticks_reached s.regs.counter s.regs.deadline
  have hticks := runSteps_replicate_tick k s (.cmd (encode .poll) :: s.inputs)
  obtain ⟨t, hpoll, hanswer⟩ := runSteps_poll_fires (s := { s with
    regs := s.regs.setCounter (s.regs.counter + BitVec.ofNat s.cfg.counterW k)
    response := if k = 0 then s.response else none }) hc hreached s.inputs
  exact ⟨k, hk, t, (runSteps_add hticks).trans hpoll, hanswer⟩

/-! ### Late polls -/

/-- A `POLL` inside the window completes, as `exec_poll_inWindow` says, and the run goes on. -/
theorem runSteps_poll {s : State} {now due : Nat} (hc : s.CursorInRange) (h : s.InWindow now due) (n : Nat) (rest : List Event) :
    ∃ r : Regs s.cfg,
      runSteps (n + 1) { s with inputs := .cmd (encode .poll) :: rest } =
        runSteps n { s with regs := r, response := some ⟨if due ≤ now then 1 else 0, .ok⟩, inputs := rest } ∧
      r.counter = s.regs.counter ∧
      r.deadline.toNat = (if due ≤ now then due + s.cfg.period else due) % 2 ^ s.cfg.counterW ∧
      s.regs.Advanced (if due ≤ now then 1 else 0) r := by
  have hwin : ({ s with inputs := rest } : State).InWindow now due := ⟨h.counter, h.deadline, h.low, h.high⟩
  obtain ⟨t, ht⟩ := exec_completes .poll (s := { s with inputs := rest }) hc
  obtain ⟨r, rfl, hcounter, hdeadline, hadv⟩ := exec_poll_inWindow hwin ht
  exact ⟨r, runSteps_cmd (decode_eq_instr_iff.mpr rfl) ht, hcounter, hdeadline, hadv hc⟩

/-- Polls in a row with no tick between: as long as the deadline before each is not later than now, each fires, performs one `STEP`
and moves the deadline on by one period (42_deadline.md R147(a)). -/
theorem runSteps_replicate_poll (n : Nat) {s : State} {now due : Nat} (hc : s.CursorInRange) (h : s.InWindow now due)
    (hlate : due + n * s.cfg.period ≤ now + s.cfg.period) (rest : List Event) :
    ∃ (r : Regs s.cfg) (a : Option Response),
      runSteps n { s with inputs := List.replicate n (.cmd (encode .poll)) ++ rest } =
        .next { s with regs := r, response := a, inputs := rest } ∧
      r.counter = s.regs.counter ∧ s.regs.Advanced n r ∧
      (State.mk s.cfg r a rest).InWindow now (due + n * s.cfg.period) := by
  have hperiod := s.cfg.period_bounds.2
  induction n generalizing s due with
  | zero =>
    refine ⟨s.regs, s.response, rfl, rfl, Regs.advanced_zero hc, ?_⟩
    rw [Nat.zero_mul, Nat.add_zero]
    exact ⟨h.counter, h.deadline, h.low, h.high⟩
  | succ n ih =>
    rw [Nat.succ_mul] at hlate
    have hdue : due ≤ now := by omega
    obtain ⟨r, hpoll, hcounter, hdeadline, hadv⟩ := runSteps_poll hc h n (List.replicate n (.cmd (encode .poll)) ++ rest)
    rw [if_pos hdue] at hdeadline hadv
    have hwin : ({ s with regs := r, response := some ⟨if due ≤ now then 1 else 0, .ok⟩ } : State).InWindow now
        (due + s.cfg.period) :=
      ⟨(congrArg BitVec.toNat hcounter).trans h.counter, hdeadline, Nat.add_le_add hdue hperiod,
        Nat.lt_of_lt_of_le h.high (by dsimp only; omega)⟩
    obtain ⟨r', a, hrun, hcounter', hadv', hwin'⟩ := ih hadv.cursor_lt hwin (by dsimp only; omega) hperiod
    refine ⟨r', a, hpoll.trans hrun, hcounter'.trans hcounter, ?_, ?_⟩
    · rw [Nat.add_comm]; exact hadv.trans hadv'
    · rw [Nat.succ_mul, Nat.add_comm (n * _), ← Nat.add_assoc]; exact hwin'

/-- A lateness inside the window puts the registers there, with the deadline's own value as its unbounded count. -/
theorem State.inWindow_of_lateness {s : State}
    (h : (sdiffW s.regs.counter s.regs.deadline).toNat < 2 ^ (s.cfg.counterW - 1)) :
    s.InWindow (s.regs.deadline.toNat + (sdiffW s.regs.counter s.regs.deadline).toNat) s.regs.deadline.toNat where
  counter := by rw [← BitVec.toNat_add, add_sdiffW]
  deadline := (Nat.mod_eq_of_lt s.regs.deadline.isLt).symm
  low := Nat.le_trans (Nat.le_add_right _ _) (Nat.le_add_right _ _)
  high := Nat.add_lt_add_left h _

/-- Settles O39: `n` polls that fire, by `runSteps_replicate_poll`, and one more, which fires unless the lateness is used up. -/
theorem latePollsCatchUp : Obligations.LatePollsCatchUp := by
  intro s n hc hlate hn
  have hwin := State.inWindow_of_lateness hlate
  generalize (sdiffW s.regs.counter s.regs.deadline).toNat = late at *
  have hfire : s.regs.deadline.toNat + n * s.cfg.period ≤ s.regs.deadline.toNat + late ↔ ¬n = late / s.cfg.period + 1 := by
    rw [Nat.add_le_add_iff_left, ← Nat.le_div_iff_mul_le s.cfg.period_bounds.1]
    omega
  have hroom : n * s.cfg.period ≤ late + s.cfg.period := by
    calc n * s.cfg.period
      _ ≤ (late / s.cfg.period + 1) * s.cfg.period := Nat.mul_le_mul_right _ hn
      _ ≤ late + s.cfg.period := by rw [Nat.succ_mul]; exact Nat.add_le_add_right (Nat.div_mul_le_self _ _) _
  obtain ⟨r, a, hrun, hcounter, hadv, hwin'⟩ :=
    runSteps_replicate_poll n hc hwin (by omega) (.cmd (encode .poll) :: s.inputs)
  obtain ⟨r', hlast, hcounter', -, hadv'⟩ := runSteps_poll hadv.cursor_lt hwin' 0 s.inputs
  simp only [hfire, ite_not] at hlast hadv'
  rw [List.replicate_succ', List.append_assoc]
  refine ⟨_, (runSteps_add hrun).trans hlast, rfl, congrArg BitVec.toNat (hcounter'.trans hcounter), ?_⟩
  refine (hadv.trans hadv').cursor.trans ?_
  congr 2
  split <;> omega

end Sys2Proof.Machine

namespace Sys2Proof.Machine

/-! ### Events between poll points -/

theorem Event.betweenPolls_iff {e : Event} :
    e.betweenPolls = true ↔ e.keepsTimeBase = true ∧ e.command ≠ some .arm ∧ e.command ≠ some .poll := by
  simp [Event.betweenPolls, and_assoc]

/-- Between poll points only ticks count on the timeline. -/
theorem Timeline.after_of_betweenPolls (tl : Timeline) (period : Nat) {e : Event} (he : e.betweenPolls = true) :
    tl.after period e = ⟨tl.now + ticksIn [e], tl.due, tl.sincePoll + ticksIn [e]⟩ := by
  obtain ⟨-, harm, hpoll⟩ := Event.betweenPolls_iff.mp he
  by_cases htick : e = .tick
  · subst htick; rfl
  · rw [tl.after_of_other period htick harm hpoll, ticksIn_cons, if_neg htick]
    rfl

/-- An event that is no command of the cursor performs no `STEP` and starts no scan. -/
theorem Event.leavesCursor_iff {e : Event} :
    e.leavesCursor = true ↔
      e.startsScan = false ∧ e.command ≠ some .step ∧ e.command ≠ some .poll := by
  simp [Event.leavesCursor, Event.startsScan, and_assoc]

theorem State.takesStep_of_leavesCursor (s : State) {e : Event} (he : e.leavesCursor = true) : (s.push e).takesStep = false := by
  obtain ⟨-, hstep, hpoll⟩ := Event.leavesCursor_iff.mp he
  exact State.takesStep_of_other (s := s.push e) hstep hpoll

/-- With the cursor in range one step on a timeline completes and keeps the timeline as `step_onTimeline` says; the scan moves on as
`step_advanced` says. -/
theorem step_push_onTimeline {s : State} {G : Nat} {tl : Timeline} {e : Event} (hc : s.CursorInRange) (h : s.OnTimeline G tl)
    (he : e.keepsTimeBase = true) (hgap : e = .tick → tl.sincePoll < G) :
    ∃ (r : Regs s.cfg) (a : Option Response),
      step (s.push e) = .next { s with regs := r, response := a } ∧ r.cursor.toNat < s.cfg.ledCount ∧
      ({ s with regs := r, response := a } : State).OnTimeline G (tl.after s.cfg.period e) ∧
      (e.command = some .poll → a = some ⟨if tl.due ≤ tl.now then 1 else 0, .ok⟩) ∧
      (e.startsScan = false → s.regs.Advanced (if (s.push e).takesStep then 1 else 0) r) := by
  obtain ⟨r, a, hstep, hcur, -⟩ := step_counts (s := s.push e) hc he
  obtain ⟨hafter, hanswer⟩ := step_onTimeline (h.congr rfl rfl s.response (e :: s.inputs)) he hgap hstep
  refine ⟨r, a, hstep, hcur, hafter, hanswer, fun hstart => ?_⟩
  obtain ⟨r', a', hstep', hadv⟩ := step_advanced (s := s.push e) hc hstart
  cases hstep.symm.trans hstep'
  exact hadv

/-- A run of events between two poll points, at most `G` ticks from the one before, only counts ticks on the timeline. -/
theorem runSteps_betweenPolls (es : List Event) {s : State} {G : Nat} {tl : Timeline} (hc : s.CursorInRange)
    (h : s.OnTimeline G tl) (hes : ∀ e ∈ es, e.betweenPolls = true) (hgap : tl.sincePoll + ticksIn es ≤ G) (rest : List Event) :
    ∃ (r : Regs s.cfg) (a : Option Response),
      runSteps es.length { s with inputs := es ++ rest } = .next { s with regs := r, response := a, inputs := rest } ∧
      r.cursor.toNat < s.cfg.ledCount ∧
      (State.mk s.cfg r a rest).OnTimeline G ⟨tl.now + ticksIn es, tl.due, tl.sincePoll + ticksIn es⟩ ∧
      ((∀ e ∈ es, e.leavesCursor = true) → s.regs.Advanced 0 r) := by
  induction es generalizing s tl with
  | nil => exact ⟨s.regs, s.response, rfl, hc, h.congr rfl rfl _ _, fun _ => Regs.advanced_zero hc⟩
  | cons e es ih =>
    obtain ⟨he, hrest⟩ := List.forall_mem_cons.mp hes
    have hticks : ticksIn (e :: es) = ticksIn [e] + ticksIn es := List.count_append (l₁ := [e])
    have hroom : e = .tick → tl.sincePoll < G := by
      rintro rfl
      rw [ticksIn_cons, if_pos rfl] at hgap
      omega
    obtain ⟨r, a, hstep, hcur, hafter, -, hadv⟩ := step_push_onTimeline (s := { s with inputs := es ++ rest }) hc
      (h.congr rfl rfl _ _) (Event.betweenPolls_iff.mp he).1 hroom
    rw [tl.after_of_betweenPolls _ he] at hafter
    obtain ⟨r', a', hrun, hcur', hafter', hkeep'⟩ := ih hcur hafter hrest (by dsimp only; omega)
    refine ⟨r', a', (runSteps_succ_of_next hstep).trans hrun, hcur', ?_, fun hleaves => ?_⟩
    · rw [hticks, ← Nat.add_assoc, ← Nat.add_assoc]
      exact hafter'
    · obtain ⟨hl, hls⟩ := List.forall_mem_cons.mp hleaves
      have hkeep := hadv (Event.leavesCursor_iff.mp hl).1
      rw [State.takesStep_of_leavesCursor _ hl] at hkeep
      exact hkeep.trans (hkeep' hls)

/-! ### The scheduling theorem -/

/-- The grid of 42_deadline.md R144 at a poll point `T` ticks after an `ARM` at tick count `start`: the deadline in force is the
first grid point after `T`. -/
def Timeline.onGrid (start period T : Nat) : Timeline := ⟨start + T, start + (T / period + 1) * period, 0⟩

/-- The deadline in force is not later than now exactly when a grid point was passed since the poll point before. -/
theorem onGrid_due_le_iff {start period T k : Nat} (hp : 0 < period) :
    start + (T / period + 1) * period ≤ start + T + k ↔ T / period < (T + k) / period := by
  rw [Nat.add_assoc start, Nat.add_le_add_iff_left, ← Nat.le_div_iff_mul_le hp, Nat.succ_le_iff]

/-- Over at most one period at most one grid point is passed. -/
theorem passed_add_of_le_period {period T k : Nat} (hp : 0 < period) (hk : k ≤ period) :
    T / period + (if T / period < (T + k) / period then 1 else 0) = (T + k) / period := by
  have hmore : T / period ≤ (T + k) / period := Nat.div_le_div_right (Nat.le_add_right T k)
  have hnext : (T + k) / period ≤ T / period + 1 := by
    rw [← Nat.add_div_right T hp]
    exact Nat.div_le_div_right (Nat.add_le_add_left hk T)
  split <;> omega

/-- Over at most one period the re-arm, if a grid point was passed, keeps the deadline the first grid point ahead. -/
theorem onGrid_due_rearmed (start : Nat) {period T k : Nat} (hp : 0 < period) (hk : k ≤ period) :
    (if T / period < (T + k) / period then start + (T / period + 1) * period + period else start + (T / period + 1) * period) =
      start + ((T + k) / period + 1) * period := by
  have hpassed := passed_add_of_le_period (T := T) hp hk
  split at hpassed
  · rw [← hpassed, if_pos (Nat.lt_succ_self _), Nat.succ_mul (T / period + 1), Nat.add_assoc]
  · rw [← hpassed, Nat.add_zero, if_neg (Nat.lt_irrefl _)]

/-- The response of a `POLL`: 1 when it fired, else 0 (42_deadline.md R143). -/
abbrev pollAnswer (fired : Prop) [Decidable fired] : Option Response := some ⟨if fired then 1 else 0, .ok⟩

/-- A `POLL` on a timeline completes, answers whether it fired and performs its `STEP` if it did; the run goes on. -/
theorem runSteps_poll_onTimeline {s : State} {G : Nat} {tl : Timeline} (hc : s.CursorInRange) (h : s.OnTimeline G tl)
    (n : Nat) (rest : List Event) :
    ∃ r : Regs s.cfg,
      runSteps (n + 1) { s with inputs := .cmd (encode .poll) :: rest } =
        runSteps n (State.mk s.cfg r (pollAnswer (tl.due ≤ tl.now)) rest) ∧
      (State.mk s.cfg r (pollAnswer (tl.due ≤ tl.now)) rest).OnTimeline G
        ⟨tl.now, if tl.due ≤ tl.now then tl.due + s.cfg.period else tl.due, 0⟩ ∧
      s.regs.Advanced (if tl.due ≤ tl.now then 1 else 0) r := by
  have hfetch : ({ s with inputs := rest } : State).OnTimeline G tl := h.congr rfl rfl _ _
  obtain ⟨t, ht⟩ := exec_completes .poll (s := { s with inputs := rest }) hc
  obtain ⟨hafter, -⟩ := exec_poll_onTimeline hfetch ht
  obtain ⟨r, rfl, -, -, hadv⟩ := exec_poll_inWindow hfetch.inWindow ht
  exact ⟨r, runSteps_cmd (decode_eq_instr_iff.mpr rfl) ht, hafter, hadv hc⟩

/-- From one poll point to the next: the events of the gap, then the `POLL`, which fires exactly when a grid point was passed. -/
theorem runSteps_segment {s : State} {G start T : Nat} (seg rest : List Event) (hc : s.CursorInRange)
    (h : s.OnTimeline G (.onGrid start s.cfg.period T)) (hseg : (∀ e ∈ seg, e.betweenPolls = true) ∧ ticksIn seg ≤ G) :
    ∃ r : Regs s.cfg,
      runSteps (seg ++ [Event.cmd (encode .poll)]).length { s with inputs := seg ++ [.cmd (encode .poll)] ++ rest } =
        .next (State.mk s.cfg r (pollAnswer (T / s.cfg.period < (T + ticksIn seg) / s.cfg.period)) rest) ∧
      r.cursor.toNat < s.cfg.ledCount ∧
      (State.mk s.cfg r (pollAnswer (T / s.cfg.period < (T + ticksIn seg) / s.cfg.period)) rest).OnTimeline G
        (.onGrid start s.cfg.period (T + ticksIn seg)) ∧
      ∀ r₀ : Regs s.cfg, r₀.Advanced (T / s.cfg.period) s.regs → (∀ e ∈ seg, e.leavesCursor = true) →
        r₀.Advanced ((T + ticksIn seg) / s.cfg.period) r := by
  obtain ⟨hbetween, hgap⟩ := hseg
  have hperiod := s.cfg.period_bounds.1
  have hticks := hgap.trans h.bound
  obtain ⟨r, a, hrun, hcur, hmid, hkeep⟩ :=
    runSteps_betweenPolls seg hc h hbetween (by rw [Timeline.onGrid, Nat.zero_add]; exact hgap) (.cmd (encode .poll) :: rest)
  obtain ⟨r', hpoll, hafter, hadv⟩ := runSteps_poll_onTimeline hcur hmid 0 rest
  simp only [pollAnswer, Timeline.onGrid, onGrid_due_le_iff hperiod, onGrid_due_rearmed start hperiod hticks] at hpoll hafter hadv
  refine ⟨r', ?_, hadv.cursor_lt, ?_, fun r₀ hbefore hleaves => ?_⟩
  · rw [List.length_append, List.append_assoc]
    exact (runSteps_add hrun).trans hpoll
  · rw [Timeline.onGrid, ← Nat.add_assoc]; exact hafter
  · rw [← passed_add_of_le_period hperiod hticks]
    exact (hbefore.trans (hkeep hleaves)).trans hadv

theorem pollSchedule_cons (seg : List Event) (segs : List (List Event)) :
    pollSchedule (seg :: segs) = seg ++ [.cmd (encode .poll)] ++ pollSchedule segs := List.flatMap_cons

theorem pollSchedule_append_singleton (segs : List (List Event)) (seg : List Event) :
    pollSchedule (segs ++ [seg]) = pollSchedule segs ++ (seg ++ [.cmd (encode .poll)]) := by
  rw [pollSchedule, List.flatMap_append, List.flatMap_singleton, pollSchedule]

/-- From poll point to poll point over any number of segments the machine stays on the grid (42_deadline.md R144, R145). -/
theorem runSteps_pollSchedule (segs : List (List Event)) (rest : List Event) {s : State} {G start T : Nat} (hc : s.CursorInRange)
    (h : s.OnTimeline G (.onGrid start s.cfg.period T))
    (hsegs : ∀ seg ∈ segs, (∀ e ∈ seg, e.betweenPolls = true) ∧ ticksIn seg ≤ G) :
    ∃ (r : Regs s.cfg) (a : Option Response),
      runSteps (pollSchedule segs).length { s with inputs := pollSchedule segs ++ rest } = .next (State.mk s.cfg r a rest) ∧
      r.cursor.toNat < s.cfg.ledCount ∧
      (State.mk s.cfg r a rest).OnTimeline G (.onGrid start s.cfg.period (T + ticksIn segs.flatten)) ∧
      ∀ r₀ : Regs s.cfg, r₀.Advanced (T / s.cfg.period) s.regs → (∀ seg ∈ segs, ∀ e ∈ seg, e.leavesCursor = true) →
        r₀.Advanced ((T + ticksIn segs.flatten) / s.cfg.period) r := by
  induction segs generalizing s T with
  | nil => exact ⟨s.regs, s.response, rfl, hc, h.congr rfl rfl _ _, fun _ hbefore _ => hbefore⟩
  | cons seg segs ih =>
    obtain ⟨hseg, hmore⟩ := List.forall_mem_cons.mp hsegs
    have hticks : ticksIn (seg :: segs).flatten = ticksIn seg + ticksIn segs.flatten := List.count_append
    obtain ⟨r, hrun, hcur, hgrid, hadv⟩ := runSteps_segment seg (pollSchedule segs ++ rest) hc h hseg
    obtain ⟨r', a, hrun', hcur', hgrid', hadv'⟩ := ih hcur hgrid hmore
    rw [hticks, ← Nat.add_assoc]
    refine ⟨r', a, ?_, hcur', hgrid', fun r₀ hbefore hleaves => ?_⟩
    · rw [pollSchedule_cons, List.length_append, List.append_assoc]
      exact (runSteps_add hrun).trans hrun'
    · obtain ⟨hl, hls⟩ := List.forall_mem_cons.mp hleaves
      exact hadv' r₀ (hadv r₀ hbefore hl) hls

/-- `ARM` puts the machine on the grid, at no ticks after it. -/
theorem armRegs_onGrid {s : State} {G : Nat} (hG : G ≤ s.cfg.period) :
    (reply s (armRegs s.regs) 0).OnTimeline G (.onGrid s.regs.counter.toNat s.cfg.period 0) := by
  rw [Timeline.onGrid, Nat.zero_div, Nat.zero_add, Nat.one_mul]
  exact armRegs_onTimeline hG (Nat.mod_eq_of_lt s.regs.counter.isLt).symm

/-- Settles O38: `ARM`, then the segments before the last by induction (`runSteps_pollSchedule`), then the last (`runSteps_segment`). -/
theorem schedulingTheorem : Obligations.SchedulingTheorem := by
  intro s segs last G hc hG hsegs
  obtain ⟨hbefore, hlast⟩ := List.forall_mem_append.mp hsegs
  have hticks : ticksIn (segs ++ [last]).flatten = ticksIn segs.flatten + ticksIn last := by
    rw [List.flatten_append, List.flatten_singleton]
    exact List.count_append
  obtain ⟨r, a, hrun, hcur, hgrid, hadv⟩ := runSteps_pollSchedule segs (last ++ [.cmd (encode .poll)] ++ s.inputs)
    (s := reply s (armRegs s.regs) 0) hc (armRegs_onGrid hG) hbefore
  obtain ⟨r', hrun', -, hgrid', hadv'⟩ := runSteps_segment last s.inputs hcur hgrid (hlast last (List.mem_singleton_self last))
  rw [Nat.zero_add] at hrun' hgrid' hadv' hadv
  rw [hticks, pollSchedule_append_singleton, Nat.add_comm 1, List.length_append, List.append_assoc,
    runSteps_cmd (decode_eq_instr_iff.mpr rfl) rfl]
  refine ⟨_, (runSteps_add hrun).trans hrun', rfl, rfl, hgrid'.counter, hgrid'.deadline, rfl, fun hleaves => ?_⟩
  obtain ⟨hleavesBefore, hleavesLast⟩ := List.forall_mem_append.mp hleaves
  have hstart : s.regs.Advanced (0 / s.cfg.period) (armRegs s.regs) := by
    rw [Nat.zero_div]
    exact (Regs.advanced_zero hc).congr rfl rfl
  exact (hadv' s.regs (hadv s.regs hstart hleavesBefore) (hleavesLast last (List.mem_singleton_self last))).cursor

end Sys2Proof.Machine

namespace Sys2Proof.Machine

/-! ### Infinite runs -/

/-- The premises of 42_deadline.md R145 on an infinite run after its first event: no `ARM`, no `CONFIGURE`, no `RST`, and at most `G`
ticks where no `POLL` comes between. -/
structure Schedule.PollsInTime (σ : Schedule) (G : Nat) : Prop where
  keepsTimeBase : ∀ n, (σ (n + 1)).keepsTimeBase = true
  noArm : ∀ n, (σ (n + 1)).command ≠ some .arm
  gap : ∀ k n, (∀ i < n, (σ (k + i)).command ≠ some .poll) → ticksIn (σ.window k n) ≤ G

/-- The timeline of an infinite run after the event `σ n`, from the timeline `tl` after the event `σ 0`. -/
def Schedule.timeline (σ : Schedule) (period : Nat) (tl : Timeline) : Nat → Timeline
  | 0 => tl
  | n + 1 => (σ.timeline period tl n).after period (σ (n + 1))

/-- Only a tick counts. -/
theorem Timeline.after_now (tl : Timeline) (period : Nat) (e : Event) :
    (tl.after period e).now = tl.now + if e = .tick then 1 else 0 := by
  unfold Timeline.after
  split
  · rfl
  · split
    · rfl
    · split <;> rfl

/-- Without an `ARM` only a `POLL` that fires moves the deadline. -/
theorem Timeline.after_due (tl : Timeline) (period : Nat) {e : Event} (harm : e.command ≠ some .arm)
    (hfire : ¬(e.command = some .poll ∧ tl.due ≤ tl.now)) : (tl.after period e).due = tl.due := by
  by_cases hpoll : e.command = some .poll
  · rw [tl.after_of_poll _ hpoll]
    exact if_neg fun hdue => hfire ⟨hpoll, hdue⟩
  · by_cases htick : e = .tick
    · subst htick; rfl
    · rw [tl.after_of_other _ htick harm hpoll]

section InfiniteRun
variable {σ : Schedule} {G period : Nat} {tl : Timeline}

/-- The ticks since the latest poll point are those of a window without a `POLL` that ends at the latest event. -/
theorem Schedule.PollsInTime.sincePoll_eq (h : σ.PollsInTime G) (h0 : tl.sincePoll = 0) (n : Nat) :
    ∃ k m, k + m = n + 1 ∧ (∀ i < m, (σ (k + i)).command ≠ some .poll) ∧
      (σ.timeline period tl n).sincePoll = ticksIn (σ.window k m) := by
  induction n with
  | zero => exact ⟨1, 0, rfl, fun i hi => absurd hi i.not_lt_zero, h0⟩
  | succ n ih =>
    obtain ⟨k, m, hkm, hnone, hsince⟩ := ih
    by_cases hpoll : (σ (n + 1)).command = some .poll
    · refine ⟨n + 2, 0, rfl, fun i hi => absurd hi i.not_lt_zero, ?_⟩
      rw [Schedule.timeline, Timeline.after_of_poll _ _ hpoll]
      rfl
    · refine ⟨k, m + 1, by omega, fun i hi => ?_, ?_⟩
      · rcases Nat.lt_succ_iff_lt_or_eq.mp hi with hlt | rfl
        · exact hnone i hlt
        · rw [hkm]; exact hpoll
      · have hbetween : (σ (n + 1)).betweenPolls = true := Event.betweenPolls_iff.mpr ⟨h.keepsTimeBase n, h.noArm n, hpoll⟩
        rw [Schedule.timeline, Timeline.after_of_betweenPolls _ _ hbetween, hsince, Schedule.window_succ, hkm]
        exact List.count_append.symm

/-- The bounded poll gap leaves room for every tick of the run. -/
theorem Schedule.PollsInTime.sincePoll_lt (h : σ.PollsInTime G) (h0 : tl.sincePoll = 0) {n : Nat} (htick : σ (n + 1) = .tick) :
    (σ.timeline period tl n).sincePoll < G := by
  obtain ⟨k, m, hkm, hnone, hsince⟩ := h.sincePoll_eq (period := period) h0 n
  have hgap := h.gap k (m + 1) fun i hi => by
    rcases Nat.lt_succ_iff_lt_or_eq.mp hi with hlt | rfl
    · exact hnone i hlt
    · rw [hkm, htick]; exact nofun
  rw [Schedule.window_succ, hkm, htick, ticksIn, List.count_append] at hgap
  rw [hsince]
  exact Nat.lt_of_succ_le hgap

/-- The tick count of a run never goes back. -/
theorem Schedule.timeline_now_mono : Monotone fun n => (σ.timeline period tl n).now :=
  monotone_nat_of_le_succ fun n => by
    rw [Schedule.timeline, Timeline.after_now]
    exact Nat.le_add_right _ _

/-- With a weakly fair counter the tick count passes every bound. -/
theorem Schedule.CounterFair.exists_now_ge (hfair : σ.CounterFair) (n bound : Nat) :
    ∃ m, n ≤ m ∧ bound ≤ (σ.timeline period tl m).now := by
  induction bound with
  | zero => exact ⟨n, Nat.le_refl n, Nat.zero_le _⟩
  | succ bound ih =>
    obtain ⟨m, hnm, hbound⟩ := ih
    obtain ⟨k, hmk, htick⟩ := hfair (m + 1)
    obtain ⟨k, rfl⟩ := Nat.exists_eq_add_of_le' (Nat.le_of_add_left_le hmk)
    have hmono : (σ.timeline period tl m).now ≤ (σ.timeline period tl k).now :=
      Schedule.timeline_now_mono (Nat.le_of_succ_le_succ hmk)
    refine ⟨k + 1, by omega, ?_⟩
    rw [Schedule.timeline, Timeline.after_now, if_pos htick]
    omega

/-- While no `POLL` fires the deadline stands. -/
theorem Schedule.PollsInTime.due_eq (h : σ.PollsInTime G) {n : Nat}
    (hnone : ∀ m, n ≤ m →
      ¬((σ (m + 1)).command = some .poll ∧ (σ.timeline period tl m).due ≤ (σ.timeline period tl m).now))
    {m : Nat} (hm : n ≤ m) : (σ.timeline period tl m).due = (σ.timeline period tl n).due := by
  induction m, hm using Nat.le_induction with
  | base => rfl
  | succ m hm ih => rw [Schedule.timeline, Timeline.after_due _ _ (h.noArm m) (hnone m hm), ih]

end InfiniteRun

section ArmedRun
variable {σ : Schedule} {G : Nat} {s : State}

/-- An infinite run that begins with `ARM` and polls in time goes on for ever, on the timeline that begins at `ARM`. -/
theorem Schedule.PollsInTime.run_onTimeline (h : σ.PollsInTime G) (hc : s.CursorInRange) (hG : G ≤ s.cfg.period)
    (harm : σ 0 = .cmd (encode .arm)) (n : Nat) :
    ∃ (r : Regs s.cfg) (a : Option Response),
      σ.run s (n + 1) = .next { s with regs := r, response := a } ∧ r.cursor.toNat < s.cfg.ledCount ∧
      ({ s with regs := r, response := a } : State).OnTimeline G
        (σ.timeline s.cfg.period (.onGrid s.regs.counter.toNat s.cfg.period 0) n) := by
  induction n with
  | zero =>
    refine ⟨armRegs s.regs, some ⟨0, .ok⟩, ?_, hc, armRegs_onGrid hG⟩
    rw [Schedule.run_succ_of_next (t := s) rfl, harm, runEvent_cmd_of_instr (decode_eq_instr_iff.mpr rfl)]
    rfl
  | succ n ih =>
    obtain ⟨r, a, hrun, hcur, htime⟩ := ih
    obtain ⟨r', a', hstep, hcur', htime', -⟩ :=
      step_push_onTimeline hcur htime (h.keepsTimeBase n) (h.sincePoll_lt rfl)
    exact ⟨r', a', (Schedule.run_succ_of_next hrun).trans hstep, hcur', htime'⟩

/-- Again and again a `POLL` comes at or after the deadline: else the deadline would stand from some time on, and the tick count,
which stays less than `G` ticks behind it, would be bounded. -/
theorem Schedule.PollsInTime.exists_firing (h : σ.PollsInTime G) (hc : s.CursorInRange) (hG : G ≤ s.cfg.period)
    (harm : σ 0 = .cmd (encode .arm)) (hfair : σ.CounterFair) {tl : Timeline}
    (htl : tl = .onGrid s.regs.counter.toNat s.cfg.period 0) (n : Nat) :
    ∃ m, n ≤ m ∧ (σ (m + 1)).command = some .poll ∧
      (σ.timeline s.cfg.period tl m).due ≤ (σ.timeline s.cfg.period tl m).now := by
  subst htl
  by_contra hnever
  obtain ⟨m, hnm, hbound⟩ := hfair.exists_now_ge (period := s.cfg.period)
    (tl := .onGrid s.regs.counter.toNat s.cfg.period 0) n
    ((σ.timeline s.cfg.period (.onGrid s.regs.counter.toNat s.cfg.period 0) n).due + G)
  obtain ⟨r, a, -, -, htime⟩ := h.run_onTimeline hc hG harm m
  have hnotLate := htime.notLate
  have hgap := htime.gap
  rw [h.due_eq (fun k hk hfire => hnever ⟨k, hk, hfire⟩) hnm] at hnotLate
  omega

end ArmedRun

/-- Settles O41: the polls of `exists_firing` answer 1 on the run of `run_onTimeline`. That the host polls for ever is not used: it
follows from the bounded gap and the fair counter. -/
theorem fairPollingFiresForever : Obligations.FairPollingFiresForever := by
  intro s σ G hc hG harm hsteps hgap _ hfair n
  have h : σ.PollsInTime G :=
    ⟨fun k => (hsteps (k + 1) (Nat.le_add_left 1 k)).1, fun k => (hsteps (k + 1) (Nat.le_add_left 1 k)).2, hgap⟩
  obtain ⟨m, hnm, hpoll, hdue⟩ := h.exists_firing hc hG harm hfair rfl n
  obtain ⟨r, a, hrun, hcur, htime⟩ := h.run_onTimeline hc hG harm m
  obtain ⟨r', a', hstep, -, -, hanswer, -⟩ := step_push_onTimeline hcur htime (h.keepsTimeBase m) (h.sincePoll_lt rfl)
  refine ⟨m + 1, Nat.le_succ_of_le hnm, hpoll, _, (Schedule.run_succ_of_next hrun).trans hstep, ?_⟩
  rw [if_pos hdue] at hanswer
  exact hanswer hpoll

end Sys2Proof.Machine

/-! ## Proofs: the Mask interface (43_mask_interface.md)

First the bits that `maskSet` and `maskClear` leave, alone and one after the other; then assigning, setting, clearing, and a run of
two commands. -/

namespace Sys2Proof.Machine

/-! ### Bits of a mask -/

section MaskUpdate
variable (old m : Word) {k : Nat}

theorem getLsbD_maskSet (k : Nat) : (maskSet old m).getLsbD k = (old.getLsbD k || m.getLsbD k) :=
  BitVec.getLsbD_or

theorem getLsbD_maskClear (hk : k < 32) : (maskClear old m).getLsbD k = (old.getLsbD k && !m.getLsbD k) := by
  rw [maskClear, BitVec.getLsbD_and, BitVec.getLsbD_not, decide_eq_true hk, Bool.true_and]

theorem getLsbD_maskClear_maskSet (hk : k < 32) :
    (maskClear (maskSet old m) m).getLsbD k = if m.getLsbD k = true then false else old.getLsbD k := by
  rw [getLsbD_maskClear _ m hk, getLsbD_maskSet]
  cases m.getLsbD k <;> simp

theorem getLsbD_maskSet_maskClear (hk : k < 32) :
    (maskSet (maskClear old m) m).getLsbD k = if m.getLsbD k = true then true else old.getLsbD k := by
  rw [getLsbD_maskSet, getLsbD_maskClear old m hk]
  cases m.getLsbD k <;> simp

end MaskUpdate

/-! ### Assign, set, clear -/

/-- Settles O43: the operand is the new mask. -/
theorem writeMaskCommands : Obligations.WriteMaskCommands :=
  ⟨isMCommand_of_format (mk := .wron) rfl fun _ => rfl,
    isMCommand_of_format (mk := .wrdim) rfl fun _ => rfl,
    isMCommand_of_format (mk := .wrblink) rfl fun _ => rfl,
    fun _ _ => ⟨rfl, rfl, rfl⟩⟩

/-- Settles O44: each command writes `maskSet` of its mask, whose bits `getLsbD_maskSet` gives. -/
theorem setMaskCommands : Obligations.SetMaskCommands := by
  refine ⟨isMCommand_of_format (mk := .seton) rfl fun _ => rfl,
    isMCommand_of_format (mk := .setdim) rfl fun _ => rfl,
    isMCommand_of_format (mk := .setblink) rfl fun _ => rfl, fun s m => ?_⟩
  refine ⟨maskSet s.regs.onMask m, maskSet s.regs.dimMask m, maskSet s.regs.blinkMask m, fun k _ => ?_, rfl, rfl, rfl⟩
  exact ⟨getLsbD_maskSet _ m k, getLsbD_maskSet _ m k, getLsbD_maskSet _ m k⟩

/-- Settles O45: each command writes `maskClear` of its mask, whose bits `getLsbD_maskClear` gives. -/
theorem clearMaskCommands : Obligations.ClearMaskCommands := by
  refine ⟨isMCommand_of_format (mk := .clron) rfl fun _ => rfl,
    isMCommand_of_format (mk := .clrdim) rfl fun _ => rfl,
    isMCommand_of_format (mk := .clrblink) rfl fun _ => rfl, fun s m => ?_⟩
  refine ⟨maskClear s.regs.onMask m, maskClear s.regs.dimMask m, maskClear s.regs.blinkMask m, fun k hk => ?_, rfl, rfl, rfl⟩
  exact ⟨getLsbD_maskClear _ m hk, getLsbD_maskClear _ m hk, getLsbD_maskClear _ m hk⟩

/-! ### One after the other -/

/-- Two commands in a row: the second executes on the registers that the first left. -/
theorem runSteps_two_cmds {i j : Instr} {s t : State} {r : Regs s.cfg} {v : Word}
    (hi : exec i (s.push (.cmd (encode j))) = .next (reply (s.push (.cmd (encode j))) r v))
    (hj : exec j (reply s r v) = .next t) :
    runSteps 2 { s with inputs := .cmd (encode i) :: .cmd (encode j) :: s.inputs } = .next t :=
  calc runSteps 2 { s with inputs := .cmd (encode i) :: .cmd (encode j) :: s.inputs }
    _ = runSteps 1 ((reply s r v).push (.cmd (encode j))) := runSteps_cmd (decode_eq_instr_iff.mpr rfl) hi
    _ = runSteps 0 t := runSteps_cmd (decode_eq_instr_iff.mpr rfl) hj

/-- Settles O46: in each mask the later command decides the bits of the operand, by `getLsbD_maskClear_maskSet` and
`getLsbD_maskSet_maskClear`. -/
theorem setThenClearRelations : Obligations.SetThenClearRelations := by
  intro s m
  refine ⟨maskClear (maskSet s.regs.onMask m) m, maskSet (maskClear s.regs.onMask m) m,
    maskClear (maskSet s.regs.dimMask m) m, maskSet (maskClear s.regs.dimMask m) m,
    maskClear (maskSet s.regs.blinkMask m) m, maskSet (maskClear s.regs.blinkMask m) m, fun k hk => ?_,
    runSteps_two_cmds rfl rfl, runSteps_two_cmds rfl rfl, runSteps_two_cmds rfl rfl,
    runSteps_two_cmds rfl rfl, runSteps_two_cmds rfl rfl, runSteps_two_cmds rfl rfl⟩
  have hclear (old : Word) := getLsbD_maskClear_maskSet old m hk
  have hset (old : Word) := getLsbD_maskSet_maskClear old m hk
  exact ⟨hclear _, hset _, hclear _, hset _, hclear _, hset _⟩

end Sys2Proof.Machine

/-! ## Proofs: the faults and the interrupts (60_exceptions.md)

The interrupt registers are kept apart because nothing but `RDIF` and `RDIM` reads them: register files that agree off them are one
file with three fields replaced (`Regs.withInterrupts`), and on both a command, an event, a step and a run leave results that are alike
(`NextAlike`). -/

namespace Sys2Proof.Machine

/-! ### Nothing stops the machine -/

/-- Settles O49: the event that the step takes completes with the cursor in range. -/
theorem noFatalCondition : Obligations.NoFatalCondition := by
  intro s hc
  rw [step_eq_runEvent]
  exact runEvent_completes s.nextEvent (s := s.afterFetch) hc

/-! ### Machines that differ in the interrupt registers -/

section Interrupts
variable {cfg : Config}

/-- The same registers with another divisor code, other interrupt flags and another interrupt mask. -/
def Regs.withInterrupts (r : Regs cfg) (d : DivSel) (f m : BitVec cfg.ifW) : Regs cfg :=
  { r with divsel := d, iflag := f, imask := m }

theorem Regs.agreeOffInterrupts_iff {r₁ r₂ : Regs cfg} :
    r₁.AgreeOffInterrupts r₂ ↔ ∃ d f m, r₂ = r₁.withInterrupts d f m := by
  constructor
  · rintro ⟨hcounter, hdeadline, hon, hdim, hblink, hcursor, hframe, hout, hdir⟩
    exact ⟨r₂.divsel, r₂.iflag, r₂.imask, by
      rw [Regs.withInterrupts, hcounter, hdeadline, hon, hdim, hblink, hcursor, hframe, hout, hdir]⟩
  · rintro ⟨d, f, m, rfl⟩
    exact ⟨rfl, rfl, rfl, rfl, rfl, rfl, rfl, rfl, rfl⟩

/-- A scan step neither reads nor writes the interrupt registers. -/
theorem scanStep_withInterrupts {r r' : Regs cfg} (h : scanStep r = some r') (d : DivSel) (f m : BitVec cfg.ifW) :
    scanStep (r.withInterrupts d f m) = some (r'.withInterrupts d f m) := by
  obtain ⟨e, he, rfl⟩ := scanStep_eq_some_iff.mp h
  exact scanStep_eq_some_iff.mpr ⟨e, he, rfl⟩

/-- Both results are next states of configuration `cfg` with the events `q` to come, their registers agree off the interrupts and have
the cursor in range, and under the condition `same` they hold the same response. -/
def NextAlike (cfg : Config) (q : List Event) (same : Prop) (x₁ x₂ : Result) : Prop :=
  ∃ (r₁ r₂ : Regs cfg) (b₁ b₂ : Option Response),
    x₁ = .next ⟨cfg, r₁, b₁, q⟩ ∧ x₂ = .next ⟨cfg, r₂, b₂, q⟩ ∧
    r₁.AgreeOffInterrupts r₂ ∧ r₁.cursor.toNat < cfg.ledCount ∧ (same → b₁ = b₂)

theorem NextAlike.mono {q : List Event} {same same' : Prop} {x₁ x₂ : Result} (h : NextAlike cfg q same x₁ x₂)
    (himp : same' → same) : NextAlike cfg q same' x₁ x₂ := by
  obtain ⟨r₁, r₂, b₁, b₂, hx₁, hx₂, hagree, hcur, hb⟩ := h
  exact ⟨r₁, r₂, b₁, b₂, hx₁, hx₂, hagree, hcur, hb ∘ himp⟩

/-- The event is a command word, and not one of the two that answer an interrupt register. -/
def Event.AnswersOffInterrupts (e : Event) : Prop :=
  ∃ w, e = .cmd w ∧ decode w ≠ .instr .rdif ∧ decode w ≠ .instr .rdim

variable {r₁ r₂ : Regs cfg}

/-- Command by command. `STEP` and a firing `POLL` are `scanStep_withInterrupts`, and `POLL` compares two registers on which the
machines agree; `CONFIGURE` looks at its operand; every other command computes the registers off the interrupts, and all answers but
those of `RDIF` and `RDIM`, from registers off the interrupts. -/
theorem exec_nextAlike (i : Instr) (h : r₁.AgreeOffInterrupts r₂) (hc : r₁.cursor.toNat < cfg.ledCount)
    (a₁ a₂ : Option Response) (q : List Event) :
    NextAlike cfg q (i ≠ .rdif ∧ i ≠ .rdim) (exec i ⟨cfg, r₁, a₁, q⟩) (exec i ⟨cfg, r₂, a₂, q⟩) := by
  obtain ⟨d, f, m, rfl⟩ := Regs.agreeOffInterrupts_iff.mp h
  have agree (r : Regs cfg) : r.AgreeOffInterrupts (r.withInterrupts d f m) := Regs.agreeOffInterrupts_iff.mpr ⟨d, f, m, rfl⟩
  obtain ⟨r', hs⟩ := exists_scanStep hc
  have hs' := scanStep_withInterrupts hs d f m
  have hc' := scanStep_cursor_lt hs
  cases i with
  | step =>
    exact ⟨_, _, _, _, exec_step_of_scanStep hs, exec_step_of_scanStep hs', agree r', hc', fun _ => rfl⟩
  | poll =>
    by_cases hr : reached r₁.counter r₁.deadline = true
    · exact ⟨_, _, _, _, exec_poll_of_reached hr hs, exec_poll_of_reached hr hs', agree (rearmRegs r'), hc', fun _ => rfl⟩
    · exact ⟨_, _, _, _, exec_poll_of_not_reached hr, exec_poll_of_not_reached hr, h, hc, fun _ => rfl⟩
  | configure d' =>
    by_cases hd : cfg.DivselLegal d'
    · exact ⟨_, _, _, _, exec_configure_of_legal hd, exec_configure_of_legal hd, { h with counter := rfl }, hc, fun _ => rfl⟩
    · exact ⟨_, _, _, _, exec_configure_of_reserved hd, exec_configure_of_reserved hd, h, hc, fun _ => rfl⟩
  | rdif => exact ⟨_, _, _, _, rfl, rfl, h, hc, fun ⟨hne, _⟩ => absurd rfl hne⟩
  | rdim => exact ⟨_, _, _, _, rfl, rfl, h, hc, fun ⟨_, hne⟩ => absurd rfl hne⟩
  | clrif | wrim => exact ⟨_, _, _, _, rfl, rfl, { h with }, hc, fun _ => rfl⟩
  | init => exact ⟨_, _, _, _, rfl, rfl, agree (initRegs r₁), zero_cursor_lt, fun _ => rfl⟩
  | _ => exact ⟨_, _, _, _, rfl, rfl, agree _, hc, fun _ => rfl⟩

/-- An event that is no command word leaves no response; a reset sets both machines alike, and the flag-set writes a register on which
they need not agree. -/
theorem runEvent_nextAlike (e : Event) (h : r₁.AgreeOffInterrupts r₂) (hc : r₁.cursor.toNat < cfg.ledCount)
    (a₁ a₂ : Option Response) (q : List Event) :
    NextAlike cfg q e.AnswersOffInterrupts (runEvent e ⟨cfg, r₁, a₁, q⟩) (runEvent e ⟨cfg, r₂, a₂, q⟩) := by
  cases e with
  | rst draw => exact ⟨_, _, _, _, rfl, rfl, ⟨rfl, rfl, rfl, rfl, rfl, rfl, rfl, rfl, rfl⟩, zero_cursor_lt, fun _ => rfl⟩
  | tick => exact ⟨_, _, _, _, rfl, rfl, { h with counter := congrArg (· + 1) h.counter }, hc, fun _ => rfl⟩
  | flag m => exact ⟨_, _, _, _, rfl, rfl, { h with }, hc, fun _ => rfl⟩
  | cmd w =>
    cases hd : decode w with
    | instr i =>
      rw [runEvent_cmd_of_instr hd, runEvent_cmd_of_instr hd]
      refine (exec_nextAlike i h hc a₁ a₂ q).mono ?_
      rintro ⟨_, ⟨⟩, hrdif, hrdim⟩
      rw [hd] at hrdif hrdim
      exact ⟨fun hi => hrdif (congrArg _ hi), fun hi => hrdim (congrArg _ hi)⟩
    | rejected j =>
      exact ⟨_, _, _, _, runEvent_cmd_of_rejected hd _, runEvent_cmd_of_rejected hd _, h, hc, fun _ => rfl⟩

theorem step_nextAlike (h : r₁.AgreeOffInterrupts r₂) (hc : r₁.cursor.toNat < cfg.ledCount) (a₁ a₂ : Option Response)
    (inputs : List Event) :
    NextAlike cfg inputs.tail (∃ e ∈ inputs.head?, e.AnswersOffInterrupts)
      (step ⟨cfg, r₁, a₁, inputs⟩) (step ⟨cfg, r₂, a₂, inputs⟩) := by
  cases inputs with
  | nil => exact (runEvent_nextAlike .tick h hc a₁ a₂ []).mono nofun
  | cons e rest =>
    refine (runEvent_nextAlike e h hc a₁ a₂ rest).mono ?_
    rintro ⟨_, ⟨⟩, he⟩
    exact he

/-- By induction on the number of steps: each step starts where the run before it has left the two machines, alike again. -/
theorem runSteps_nextAlike (n : Nat) (h : r₁.AgreeOffInterrupts r₂) (hc : r₁.cursor.toNat < cfg.ledCount)
    (a₁ a₂ : Option Response) (inputs : List Event) :
    NextAlike cfg (inputs.drop n) (∃ k, n = k + 1 ∧ ∃ e ∈ inputs[k]?, e.AnswersOffInterrupts)
      (runSteps n ⟨cfg, r₁, a₁, inputs⟩) (runSteps n ⟨cfg, r₂, a₂, inputs⟩) := by
  induction n with
  | zero => exact ⟨r₁, r₂, a₁, a₂, rfl, rfl, h, hc, nofun⟩
  | succ n ih =>
    obtain ⟨r₁', r₂', b₁, b₂, hrun₁, hrun₂, h', hc', -⟩ := ih
    have hstep := step_nextAlike h' hc' b₁ b₂ (inputs.drop n)
    rw [List.tail_drop, List.head?_drop] at hstep
    obtain ⟨r₁'', r₂'', c₁, c₂, hstep₁, hstep₂, h'', hc'', hc₁₂⟩ := hstep
    refine ⟨r₁'', r₂'', c₁, c₂, (runSteps_add hrun₁).trans (runSteps_succ_of_next hstep₁),
      (runSteps_add hrun₂).trans (runSteps_succ_of_next hstep₂), h'', hc'', ?_⟩
    rintro ⟨_, ⟨⟩, he⟩
    exact hc₁₂ he

end Interrupts

/-- Settles O56: `step_nextAlike`, with the answer clause at the word that is the first event. -/
theorem stepKeepsInterruptsApart : Obligations.StepKeepsInterruptsApart := by
  intro cfg r₁ r₂ a₁ a₂ inputs h hc
  obtain ⟨r₁', r₂', b₁, b₂, hstep₁, hstep₂, h', hc', hb⟩ := step_nextAlike h hc a₁ a₂ inputs
  exact ⟨r₁', r₂', b₁, b₂, hstep₁, hstep₂, h', hc', fun w hw hrdif hrdim => hb ⟨_, hw, w, rfl, hrdif, hrdim⟩⟩

/-- Settles O57: `runSteps_nextAlike`, with the answer clause at the word that the last step took. -/
theorem interruptsDoNotInfluenceTheBlock : Obligations.InterruptsDoNotInfluenceTheBlock := by
  intro cfg r₁ r₂ a₁ a₂ inputs n h hc
  obtain ⟨r₁', r₂', b₁, b₂, hrun₁, hrun₂, h', -, hb⟩ := runSteps_nextAlike n h hc a₁ a₂ inputs
  exact ⟨r₁', r₂', b₁, b₂, hrun₁, hrun₂, h', fun k w hk hw hrdif hrdim => hb ⟨k, hk, _, hw, w, rfl, hrdif, hrdim⟩⟩

end Sys2Proof.Machine

/-! ## Proofs: reset, boot order and hazards (70_reset_and_hazards.md)

The block just after a reset and a `STEP` before `INIT`, the boot order, and which deadlines are reached before `ARM` has set one. -/

namespace Sys2Proof.Machine

/-! ### Just after a reset -/

section AfterReset
variable {cfg : Config}

/-- Where every pin is an input no line is driven, whatever `out` holds (10_state.md R34). -/
theorem Regs.line_of_dir_zero {r : Regs cfg} (h : r.dir = 0) (i : Nat) : r.line i = .z :=
  Regs.line_of_not_driven (by simp [h])

/-- With no interrupt enabled `irq` is 0, whatever is pending (10_state.md R36). -/
theorem Regs.irq_of_imask_zero {r : Regs cfg} (h : r.imask = 0) : r.irq = false := by
  simp [Regs.irq, h]

/-- With no LED on a scan step writes the idle pattern (41_scan_engine.md R122, R123). -/
theorem scanStep_out_of_onMask_zero {r r' : Regs cfg} (hs : scanStep r = some r') (hon : r.onMask = 0) : r'.out = cfg.idle := by
  obtain ⟨e, -, rfl⟩ := scanStep_eq_some_iff.mp hs
  have hdark : litNow r = false := lit_of_off (by simp [hon])
  simp [hdark, pattern]

end AfterReset

/-- Settles O10: a reset leaves `dir` and `imask` 0. -/
theorem nothingIsDrivenAfterReset : Obligations.NothingIsDrivenAfterReset := by
  intro s t draw h
  rw [step_push] at h
  cases h
  exact ⟨Regs.line_of_dir_zero rfl, Regs.irq_of_imask_zero rfl⟩

/-- Settles O60: the reset values of cursor, `on_mask` and `dir` decide the scan step, and no draw enters. -/
theorem stepBeforeInitReachesNoLine : Obligations.StepBeforeInitReachesNoLine := by
  intro cfg draw inputs
  obtain ⟨r, hs⟩ := exists_scanStep (r := Regs.afterReset cfg draw) zero_cursor_lt
  refine ⟨r, exec_step_of_scanStep hs, scanStep_out_of_onMask_zero hs rfl, ?_, Regs.line_of_dir_zero (scanStep_dir hs)⟩
  simpa using (scanStep_position hs).1

/-! ### The boot order -/

/-- The code of the build's own divisor fits the three bits of `divsel` and is legal. -/
theorem divselLegal_div0 (cfg : Config) : cfg.DivselLegal (BitVec.ofNat 3 cfg.div0) := by
  have hlt := cfg.div0_lt
  have hlen := cfg.divisors_length_le
  rw [Params.DivselLegal, BitVec.toNat_ofNat]
  omega

/-- `ARM` at counter 0 sets the deadline one period from 0. -/
theorem armRegs_deadline_toNat_of_counter_zero {cfg : Config} {r : Regs cfg} (h : r.counter = 0) :
    (armRegs r).deadline.toNat = cfg.period := by
  rw [armRegs_deadline_toNat, h]
  simp [Nat.mod_eq_of_lt cfg.period_lt]

/-- Settles O59: each of the three commands executes on the registers that the one before left, and of the registers it finds the
last keeps `imask` alone. -/
theorem bootReachesTheStartState : Obligations.BootReachesTheStartState := by
  intro s
  have hconfigure := exec_configure_of_legal (s := (s.push (.cmd (encode .arm))).push (.cmd (encode .init)))
    (divselLegal_div0 s.cfg)
  refine ⟨matrixLines s.cfg, (armRegs (initRegs (configureRegs s.regs (BitVec.ofNat 3 s.cfg.div0)))).deadline,
    getLsbD_matrixLines, armRegs_deadline_toNat_of_counter_zero rfl, ?_⟩
  rw [runSteps_cmd (decode_eq_instr_iff.mpr rfl) hconfigure]
  exact runSteps_two_cmds (s := reply s (configureRegs s.regs (BitVec.ofNat 3 s.cfg.div0)) 0) rfl rfl

/-! ### The deadlines that are reached -/

section HalfReached
variable {n : Nat} (now : BitVec n)

/-- Whether a deadline is reached repeats with the range of the counter. -/
theorem reached_ofNat_periodic : Function.Periodic (fun d => reached now (BitVec.ofNat n d) = true) (2 ^ n) := by
  intro d
  have hwrap : BitVec.ofNat n (d + 2 ^ n) = BitVec.ofNat n d := BitVec.eq_of_toNat_eq (by simp)
  simp only [hwrap]

/-- The reduced difference to the deadline `k + 1` ticks after `now` is the complement of `k`. -/
theorem sdiffW_add_succ (k : BitVec n) : sdiffW now (now + (k + 1)) = ~~~k := by
  rw [sdiffW, sub_add_cancel_left, neg_add', BitVec.not_eq_neg_add]
  rfl

/-- Of the deadlines after `now`, over one range of the counter, the first half is ahead and the second half is reached. -/
theorem reached_after_now_iff (hn : 1 ≤ n) {k : Nat} (hk : k < 2 ^ n) :
    reached now (BitVec.ofNat n (now.toNat + 1 + k)) = true ↔ 2 ^ (n - 1) ≤ k := by
  have hdue : BitVec.ofNat n (now.toNat + 1 + k) = now + (BitVec.ofNat n k + 1) := by
    apply BitVec.eq_of_toNat_eq
    simp [BitVec.toNat_add, Nat.add_assoc, Nat.add_comm 1 k]
  have hrange : 2 * 2 ^ (n - 1) = 2 ^ n := mul_pow_sub_one (by omega) 2
  rw [hdue, reached_iff, sdiffW_add_succ, BitVec.toNat_not, BitVec.toNat_ofNat, Nat.mod_eq_of_lt hk]
  omega

end HalfReached

/-- Settles O37: the count does not depend on where the range of deadlines begins, and from just after `now` it is a half. -/
theorem halfOfTheDeadlinesAreReached : Obligations.HalfOfTheDeadlinesAreReached := by
  intro n now hn
  have hrange : 2 ^ n = 2 ^ (n - 1) + 2 ^ (n - 1) := by rw [← Nat.two_mul, mul_pow_sub_one (by omega)]
  calc (List.range (2 ^ n)).countP (fun d => reached now (BitVec.ofNat n d))
    _ = Nat.count (fun d => reached now (BitVec.ofNat n d) = true) (2 ^ n) := by simp [Nat.count]
    _ = Nat.count (fun k => reached now (BitVec.ofNat n (now.toNat + 1 + k)) = true) (2 ^ n) :=
      (count_window_of_periodic (reached_ofNat_periodic now) (now.toNat + 1)).symm
    _ = Nat.count (fun k => reached now (BitVec.ofNat n (now.toNat + 1 + k)) = true) (2 ^ (n - 1)) +
        Nat.count (fun k => reached now (BitVec.ofNat n (now.toNat + 1 + (2 ^ (n - 1) + k))) = true) (2 ^ (n - 1)) := by
      rw [hrange, Nat.count_add]
    _ = 0 + 2 ^ (n - 1) := by
      refine congrArg₂ (· + ·) (Nat.count_of_forall_not fun k hk => ?_) (Nat.count_of_forall fun k hk => ?_)
      · rw [reached_after_now_iff now hn (by omega)]; omega
      · rw [reached_after_now_iff now hn (by omega)]; omega
    _ = 2 ^ (n - 1) := Nat.zero_add _

end Sys2Proof.Machine
